-- ==== Sys2Proof/Word.lean ====
section
/-! DEFINITION. The words of the FD4820 and fixed tables of them (Table 1-1, 0.4 Conventions). -/

namespace Sys2Proof

/-- A byte of a frame or of a status. -/
abbrev Byte := BitVec 8

/-- A point in table time: a 32-bit value that wraps (R21). -/
abbrev Time := BitVec 32

/-- A client 0..3, and the port of the same number (R151). -/
abbrev Client := Fin 4

/-- A trigger line TRG0..TRG15 or an event output line EVT0..EVT15. -/
abbrev Line := Fin 16

/-- A slot of the record table, 0..2047 (R2). -/
abbrev SlotId := Fin 2048

/-- A fixed number `n` of like things, numbered from 0. -/
structure Table (α : Type) (n : Nat) where
  cells : List α
  size : cells.length = n
deriving DecidableEq, Repr

/-- The entry at `i`. -/
def Table.get {α : Type} {n : Nat} (t : Table α n) (i : Fin n) : α :=
  t.cells[i.val]'(by rw [t.size]; exact i.isLt)

/-- The table with the entry at `i` replaced. -/
def Table.set {α : Type} {n : Nat} (t : Table α n) (i : Fin n) (a : α) : Table α n :=
  ⟨t.cells.set i.val a, by rw [List.length_set]; exact t.size⟩

/-- The table whose every entry is `a`. -/
def Table.fill {α : Type} (n : Nat) (a : α) : Table α n :=
  ⟨List.replicate n a, List.length_replicate⟩

/-- The table with `f` applied to every entry. -/
def Table.map {α β : Type} {n : Nat} (t : Table α n) (f : α → β) : Table β n :=
  ⟨t.cells.map f, by rw [List.length_map]; exact t.size⟩

/-- An electrical level. -/
inductive Level where
  | low
  | high
deriving DecidableEq, Repr

/-- The opposite level. -/
def Level.other : Level → Level
  | .low => .high
  | .high => .low

end Sys2Proof
end

