-- ==== Sys2Proof/Syntax.lean ====
section
/-! DEFINITION. The commands of the FD4820: one constructor for each row of spec/opcode_table.json. -/

namespace Sys2Proof

/-- The two edges of SELn that bound a transfer (R152). `rises` carries the complete bytes on MOSIn of the whole transfer, its code
byte first. -/
inductive SelEdge where
  | falls
  | rises (mosi : List Byte)
deriving DecidableEq, Repr

/-- The levels on the inputs when RESET deasserts (R40, R117, R168). -/
structure Pins where
  holdin : Level
  trg : Table Level 16
  prst : Table Level 4
  sel : Table Level 4
deriving DecidableEq, Repr

/-- A command: one row of spec/opcode_table.json, taken whole. -/
inductive Instr where
  /-- SUBMIT (R155). -/
  | submit (p : Client) (edge : SelEdge)
  /-- FETCH (R159). -/
  | fetch (p : Client) (edge : SelEdge)
  /-- IGNORED_TRANSFER (R152). -/
  | ignoredTransfer (p : Client) (edge : SelEdge)
  /-- SELECTION (R161). -/
  | selection
  /-- UNKNOWN_REQUEST (R171). -/
  | unknownRequest
  | create
  | retire
  | arm
  | disarm
  | revise
  | relabel
  | query
  | querySet
  | bindOutput
  | bindTrigger
  | unbind
  | collect
  | acknowledge
  | setMask
  | offer
  | accept
  | decline
  | withdraw
  | listOffers
  | readTime
  | startTime
  | stopTime
  | holdTime
  | releaseTime
  | setReleasePolicy
  | configureTrigger
  | configureOutput
  | setQuota
  | grantControl
  | revokeControl
  | purgeClient
  | deviceStatus
  /-- PURGE_STEP (R191). -/
  | purgeStep
  /-- PORT_RESET: a detected assertion of PRSTn (R165). -/
  | portReset (p : Client)
  /-- PORT_RESET_RELEASE: a detected deassertion of PRSTn (R166). -/
  | portResetRelease (p : Client)
  /-- HOLDIN_ASSERTS (R32). -/
  | holdinAsserts
  /-- HOLDIN_DEASSERTS (R32). -/
  | holdinDeasserts
  /-- TRIGGER_EVENT: a detected change of TRGk to `level` (R104). -/
  | triggerEvent (k : Line) (level : Level)
  /-- OWED_ADVANCE: a REFCLK edge that completes a prescaler count (R26). -/
  | owedAdvance
  /-- ADVANCE (R47). -/
  | advance
  /-- EXPIRY (R48). -/
  | expiry
  /-- LAPSE of the offer of the record in slot `i` (R144). -/
  | lapse (i : SlotId)
  /-- RESET, from its assertion to its deassertion (R11). -/
  | reset (pins : Pins)
  /-- REFCLK_PHASE_EDGE (R25). -/
  | refclkPhaseEdge
  /-- FETCH_CODE_RECOGNISED (R158): the first byte of a transfer is complete, and is the FETCH code. -/
  | fetchCodeRecognised (p : Client)
deriving DecidableEq, Repr

end Sys2Proof
end

