-- ==== Sys2Proof/WellFormed.lean ====
section
/-! DEFINITION. The kind of a transfer (Table 9-2), and what makes a command one the outside can give: the first byte of its
transfer is one its row takes. -/

namespace Sys2Proof

/-- The code byte that chooses SUBMIT (R179). -/
def submitCode : Byte := 0xA5

/-- The code byte that chooses FETCH (R179). -/
def fetchCode : Byte := 0x5A

/-- Transfer kinds (Table 9-2). -/
inductive TransferKind where
  | submit
  | fetch
  | ignored
deriving DecidableEq, Repr

/-- The kind of a transfer of the complete bytes `mosi`: its first byte chooses it (R152, R179), and without one it is
ignored. -/
def transferKind : List Byte → TransferKind
  | [] => .ignored
  | first :: _ => if first = submitCode then .submit else if first = fetchCode then .fetch else .ignored

/-- A command is well formed when its transfer is of the kind its row names. Every other operand is in range by its type. -/
def Instr.wellFormed : Instr → Bool
  | .submit _ (.rises mosi) => decide (transferKind mosi = .submit)
  | .fetch _ (.rises mosi) => decide (transferKind mosi = .fetch)
  | .ignoredTransfer _ (.rises mosi) => decide (transferKind mosi = .ignored)
  | _ => true

end Sys2Proof
end

