-- ==== Sys2Proof/Decode.lean ====
section
/-! DEFINITION. The command a word of spec/opcode_table.json's bits spells. -/

namespace Sys2Proof

/-- No row of spec/opcode_table.json gives bits: a command is an event on the part's lines, not an encoded word, so no
word spells one (log entry 18). The request frames are decoded in Machine/Operands.lean. -/
def decodeTableWord (_nbits _w : Nat) : Option Instr := none

end Sys2Proof
end

