-- ==== Sys2Proof/Config.lean ====
section
/-! DEFINITION. The numbers the spec fixes for the part, and the one value it leaves free. -/

namespace Sys2Proof.Config

/-- The longest period, delay, remaining count or lapse interval, in ticks (R2, R173). -/
def maxTicks : Nat := 16777215

/-- The largest owed count (R26). -/
def maxOwed : Nat := 65535

/-- The largest prescaler (R25). -/
def maxPrescaler : Nat := 65536

/-- The largest overrun (R120). -/
def maxOverrun : Nat := 255

/-- The most frames an inbound queue holds (R156). -/
def inboundLimit : Nat := 4

/-- The largest reservation count (R157). -/
def reservationLimit : Nat := 8

/-- The most offers the offer table holds (R136). -/
def offerLimit : Nat := 32

/-- The most records, and the most quota in all (R9, R187). -/
def tableSize : Nat := 2048

/-- The longest response body, in bytes (R158). -/
def responseLimit : Nat := 124

/-- The most entries a COLLECT, LIST-OFFERS or QUERY-SET reports (R20, R127, R147). -/
def listLimit : Nat := 8

/-- The quota of each client after RESET (R187). -/
def resetQuota : Nat := 512

/-- FREE VALUE (log entry 7): the n-th byte shifted out on MISOn at a place where the spec states none, that is
after the two status bytes of an ignored transfer (R152). -/
opaque freeByte : Nat → Byte

end Sys2Proof.Config
end

