-- ==== Sys2Proof/Machine/Signals.lean ====
section
/-! DEFINITION. The pins: the asserted level of each signal (Table 0-1, R1), the command a detected change of an input is,
and the command a transfer is by its first byte (R152, R179). -/

namespace Sys2Proof.Machine

/-- The signals that Table 0-1 gives an asserted level. -/
inductive Signal where
  | attn
  | prst
  | holdin
  | reset
  | sel
deriving DecidableEq, Repr

/-- The level at which a signal is asserted (Table 0-1, R1). -/
def Signal.assertedLevel : Signal → Level
  | .attn => .low
  | .prst => .low
  | .holdin => .high
  | .reset => .low
  | .sel => .low

/-- Whether a signal at a level is asserted (R1). -/
def Signal.asserted (x : Signal) (l : Level) : Bool := decide (l = x.assertedLevel)

/-- The level that says whether a signal is asserted. -/
def Signal.level (x : Signal) (asserted : Bool) : Level := if asserted then x.assertedLevel else x.assertedLevel.other

/-- The inputs whose changes the part takes as events. RESET carries the levels on the other inputs. -/
inductive Input where
  | trg (k : Line)
  | prst (p : Client)
  | holdin
  | reset (pins : Pins)
deriving DecidableEq, Repr

/-- The command that a detected change of an input to a level is (R1): TRIGGER_EVENT (R102), PORT_RESET or
PORT_RESET_RELEASE (R165, R166), HOLDIN_ASSERTS or HOLDIN_DEASSERTS (R32). RESET is one command, given when RESET deasserts, and
none while it is asserted (log entry 8). -/
def detectedChange : Input → Level → Option Instr
  | .trg k, l => some (.triggerEvent k l)
  | .prst p, l => some (if Signal.prst.asserted l then .portReset p else .portResetRelease p)
  | .holdin, l => some (if Signal.holdin.asserted l then .holdinAsserts else .holdinDeasserts)
  | .reset pins, l => if Signal.reset.asserted l then none else some (.reset pins)

/-- The command that the completion of a transfer's first byte is: FETCH_CODE_RECOGNISED for the FETCH code, and none for any
other byte (R158, R179). -/
def firstByteCommand (p : Client) (first : Byte) : Option Instr :=
  if transferKind [first] = .fetch then some (.fetchCodeRecognised p) else none

/-- The command that a transfer of the bytes `mosi` is when SELn rises (Table 9-2, R179). -/
def transferCommand (p : Client) (mosi : List Byte) : Instr :=
  match transferKind mosi with
  | .submit => .submit p (.rises mosi)
  | .fetch => .fetch p (.rises mosi)
  | .ignored => .ignoredTransfer p (.rises mosi)

end Sys2Proof.Machine
end

