-- ==== Sys2Proof/Machine/State.lean ====
section
/-! DEFINITION. The state of the FD4820, block by block, and its value after RESET. -/

namespace Sys2Proof.Machine

/-- Record states (Table 1-2). FREE is a slot with no record. -/
inductive RecState where
  | idle
  | armed
  | suspended
  | waiting
  | fired
deriving DecidableEq, Repr

/-- Record modes (R58). -/
inductive Mode where
  | single
  | cyclic
  | square
  | delayed
  | watch
deriving DecidableEq, Repr

/-- Output levels (R59). -/
inductive OutLevel where
  | inactive
  | active
deriving DecidableEq, Repr

/-- The half in progress of a SQUARE record (R75). -/
inductive Phase where
  | low
  | high
deriving DecidableEq, Repr

/-- A record: the fields of Table 1-1 but slot and generation, which every slot has. An absent field is `none`. -/
structure Rec where
  state : RecState
  owner : Client
  mode : Mode
  period : Nat
  staged : Option Nat
  dueTime : Option Time
  remaining : Option Nat
  phase : Option Phase
  outputLevel : Option OutLevel
  outputBinding : Option Line
  triggerBinding : Option Line
  priority : Fin 4
  tag : BitVec 16
  share : Bool
  unacknowledged : Bool
  firstFire : Option Time
  overrun : Nat
  lastFire : Option Time
  offered : Bool
deriving DecidableEq, Repr

/-- A slot of the record table (R2): its generation, and its record unless it is FREE. -/
structure Slot where
  generation : BitVec 5
  record : Option Rec
deriving DecidableEq, Repr

/-- Release policies (R33). -/
inductive Policy where
  | catchUp
  | slip
deriving DecidableEq, Repr

/-- The time base (R23, R25 to R27, R33). -/
structure TimeBase where
  stopped : Bool
  requestHold : Bool
  lineHold : Bool
  prescaler : Nat
  phase : Nat
  owed : Nat
  slipped : Bool
  policy : Policy
deriving DecidableEq, Repr

/-- An entry of the schedule: an ARMED record and its due time (R41). -/
structure Entry where
  slot : SlotId
  due : Time
deriving DecidableEq, Repr

/-- A trigger line (R100). -/
structure TrgLine where
  polarity : Level
  level : Level
  listeners : List SlotId
deriving DecidableEq, Repr

/-- An event output line (R109). -/
structure EvtLine where
  idle : Level
  bound : Option SlotId
  driven : Level
deriving DecidableEq, Repr

/-- The attention state of one client (R119, R124): its set, its mask level, and whether its ATTN line is asserted. -/
structure Attn where
  set : List SlotId
  mask : Nat
  line : Bool
deriving DecidableEq, Repr

/-- An entry of the offer table (Table 8-1). -/
structure Offer where
  record : SlotId
  giver : Client
  receiver : Client
  lapse : Time
deriving DecidableEq, Repr

/-- Port states (R151). -/
inductive PortState where
  | ready
  | reset
deriving DecidableEq, Repr

/-- A transfer in progress. `status` is the port status captured when SELn fell, absent where the port was in RESET then
(R153, R166). `ended` is set when a port reset or RESET ended the transfer (R165, R168). `chosen` is absent until the FETCH
code is recognised, and then the response chosen, or none (R158). -/
structure Transfer where
  status : Option (Byte × Byte)
  ended : Bool
  chosen : Option (Option (List Byte))
deriving DecidableEq, Repr

/-- A client port (Table 9-1). Frames are held as their bodies: the length byte and the CRC byte follow from the body
(R154, R158). `assertTaken` says whether the last PRSTn change taken was an assertion (R165, R166, R168). `shifted` is the
MODEL's record of the complete bytes shifted out on MISOn in the last transfer that ended, `none` standing for high impedance
(log entry 6). -/
structure Port where
  state : PortState
  assertTaken : Bool
  inbound : List (List Byte)
  outbound : List (List Byte)
  refused : Bool
  malformed : Bool
  transfer : Option Transfer
  shifted : List (Option Byte)
deriving DecidableEq, Repr

/-- The request in service: the port it came from, the body of its frame, and the discard mark of that port's in-service
marker (R151, R161). -/
structure Serving where
  port : Client
  body : List Byte
  discard : Bool
deriving DecidableEq, Repr

/-- Why the block stops with a fault: never. The spec describes no condition that stops the part, so there is no
constructor and every meaning answers a next state. -/
inductive Fault
deriving DecidableEq, Repr

/-- Why the block refuses a command. -/
inductive Refusal where
  /-- Raised by `exec` for a command that has no meaning yet: none is left. Safe: the model stops where the part goes on. -/
  | notModelled (mnemonic : String)
deriving DecidableEq, Repr

/-- The whole state of the part, and the queue of commands waiting to be taken. -/
structure State where
  /-- Record table (R2), free list (R9), owned counts (R10). -/
  slots : Table Slot 2048
  freeList : List SlotId
  owned : Table Nat 4
  /-- Time base (R23). -/
  timeBase : TimeBase
  /-- Table time (R21) and the schedule (R41). -/
  tableTime : Time
  schedule : List Entry
  /-- Line unit (R100, R109). -/
  trg : Table TrgLine 16
  evt : Table EvtLine 16
  /-- Attention unit (R119, R124). -/
  attn : Table Attn 4
  /-- Offer table (R136). -/
  offers : List Offer
  /-- Ports (R151), the request in service, and the arbiter's last-served port (R161). -/
  ports : Table Port 4
  executor : Option Serving
  lastServed : Client
  /-- Control set (R185), quotas (R187), purge states, purge queue and cursor (R189). -/
  control : Table Bool 4
  quota : Table Nat 4
  purging : Table Bool 4
  purgeQueue : List Client
  cursor : Option SlotId
  /-- The MODEL's own: how many free values have been drawn (log entry 7). -/
  freeDraws : Nat
  /-- The MODEL's own: the commands waiting, first in first out. -/
  pending : List Instr
deriving DecidableEq, Repr

/-- The slots 0, 1, …, 2047 in that order (R11). -/
def allSlots : List SlotId := List.finRange 2048

/-- A port after RESET, by the levels on its PRSTn and its SELn when RESET deasserts (R1, R168). -/
def portAfterReset (prst sel : Level) : Port :=
  { state := if Signal.prst.asserted prst then .reset else .ready
    assertTaken := false
    inbound := []
    outbound := []
    refused := false
    malformed := false
    transfer := if Signal.sel.asserted sel then some { status := none, ended := true, chosen := none } else none
    shifted := [] }

/-- The four ports after RESET. -/
def portsAfterReset (pins : Pins) : Table Port 4 :=
  ⟨[portAfterReset (pins.prst.get 0) (pins.sel.get 0), portAfterReset (pins.prst.get 1) (pins.sel.get 1),
    portAfterReset (pins.prst.get 2) (pins.sel.get 2), portAfterReset (pins.prst.get 3) (pins.sel.get 3)], rfl⟩

/-- The values after RESET of every block (R11, R40, R57, R117, R134, R150, R168, R187, R195), given the input levels when
RESET deasserts. -/
def State.afterReset (pins : Pins) : State :=
  { slots := Table.fill 2048 { generation := 0, record := none }
    freeList := allSlots
    owned := Table.fill 4 0
    timeBase :=
      { stopped := true, requestHold := false, lineHold := Signal.holdin.asserted pins.holdin, prescaler := 1, phase := 0, owed := 0,
        slipped := false, policy := .catchUp }
    tableTime := 0
    schedule := []
    trg := pins.trg.map fun l => { polarity := .high, level := l, listeners := [] }
    evt := Table.fill 16 { idle := .low, bound := none, driven := .low }
    attn := Table.fill 4 { set := [], mask := 0, line := false }
    offers := []
    ports := portsAfterReset pins
    executor := none
    lastServed := 3
    control := (Table.fill 4 false).set 0 true
    quota := Table.fill 4 Config.resetQuota
    purging := Table.fill 4 false
    purgeQueue := []
    cursor := none
    freeDraws := 0
    pending := [] }

/-- The input levels `State.reset` takes (log entry 9, DESIGN CHOICE): HOLDIN and every TRG input LOW, every PRSTn and every
SELn HIGH. -/
def quietPins : Pins :=
  { holdin := .low, trg := Table.fill 16 .low, prst := Table.fill 4 .high, sel := Table.fill 4 .high }

/-- The machine right after reset. -/
def State.reset : State := State.afterReset quietPins

end Sys2Proof.Machine
end

