-- ==== Sys2Proof/Machine/Operands.lean ====
section
/-! DEFINITION. Request frames and the bytes of payloads: the request catalogue (Table 10-1), the widths and codes of R181,
the CRC (R184), and arithmetic on points in table time (R21). -/

namespace Sys2Proof.Machine

/-! ### Table-time arithmetic (R21) -/

/-- The point `d` ticks after `t`, modulo 2^32. -/
def after (t : Time) (d : Nat) : Time := t + BitVec.ofNat 32 d

/-- How many ticks `v` lies ahead of `t`, counted forward modulo 2^32. -/
def ahead (t v : Time) : Nat := (v - t).toNat

/-- The HIGH half of a SQUARE cycle of period `p`: ceil(p/2) (R75). -/
def highHalf (p : Nat) : Nat := (p + 1) / 2

/-- The LOW half of a SQUARE cycle of period `p`: floor(p/2) (R75). -/
def lowHalf (p : Nat) : Nat := p / 2

/-! ### Values sent most significant byte first (R179, R181) -/

def byte1 (n : Nat) : List Byte := [BitVec.ofNat 8 n]
def byte2 (n : Nat) : List Byte := [BitVec.ofNat 8 (n / 256), BitVec.ofNat 8 n]
def byte3 (n : Nat) : List Byte := [BitVec.ofNat 8 (n / 65536), BitVec.ofNat 8 (n / 256), BitVec.ofNat 8 n]
def byte4 (n : Nat) : List Byte :=
  [BitVec.ofNat 8 (n / 16777216), BitVec.ofNat 8 (n / 65536), BitVec.ofNat 8 (n / 256), BitVec.ofNat 8 n]

/-- A yes/no item (R181). -/
def yesNo (b : Bool) : List Byte := [if b then 1 else 0]

/-- A table-time value in 4 bytes (R181). -/
def timeBytes (t : Time) : List Byte := byte4 t.toNat

/-- A due or lapse time followed by its ticks ahead of `now` (R176, R183). -/
def timeAndTicks (now v : Time) : List Byte := timeBytes v ++ byte3 (ahead now v)

/-- The bytes of an optional item: none when it is absent (R175). -/
def optBytes {α : Type} (f : α → List Byte) : Option α → List Byte
  | none => []
  | some a => f a

/-- The number whose bit k is the k-th of the list (R181). -/
def bitsValue : List Bool → Nat
  | [] => 0
  | b :: bs => (if b then 1 else 0) + 2 * bitsValue bs

/-- A presence byte: bit k is set when the k-th optional item is sent (R181). -/
def presence (items : List Bool) : List Byte := byte1 (bitsValue items)

/-- The control set as one byte with bit c set for each client c in it (R181). -/
def controlByte (control : Table Bool 4) : List Byte := presence control.cells

/-! ### Enumeration codes (Table 10-8) -/

def Mode.code : Mode → Nat
  | .single => 0
  | .cyclic => 1
  | .square => 2
  | .delayed => 3
  | .watch => 4

def modeOf (n : Nat) : Option Mode :=
  match n with
  | 0 => some .single
  | 1 => some .cyclic
  | 2 => some .square
  | 3 => some .delayed
  | 4 => some .watch
  | _ => none

def RecState.code : RecState → Nat
  | .idle => 1
  | .armed => 2
  | .suspended => 3
  | .waiting => 4
  | .fired => 5

def levelCode : Level → Nat
  | .low => 0
  | .high => 1

def levelOf (n : Nat) : Option Level :=
  match n with
  | 0 => some .low
  | 1 => some .high
  | _ => none

def OutLevel.code : OutLevel → Nat
  | .inactive => 0
  | .active => 1

def Policy.code : Policy → Nat
  | .catchUp => 0
  | .slip => 1

def policyOf (n : Nat) : Option Policy :=
  match n with
  | 0 => some .catchUp
  | 1 => some .slip
  | _ => none

/-- A share argument: 1 yes, 0 no, anything else out of range (R181). -/
def shareOf (n : Nat) : Option Bool :=
  match n with
  | 0 => some false
  | 1 => some true
  | _ => none

/-- The kind of binding an UNBIND names (R112). -/
inductive BindingKind where
  | output
  | trigger
deriving DecidableEq, Repr

def bindingKindOf (n : Nat) : Option BindingKind :=
  match n with
  | 0 => some .output
  | 1 => some .trigger
  | _ => none

def BindingKind.code : BindingKind → Nat
  | .output => 0
  | .trigger => 1

/-- The number `n` as one of `m` things numbered from 0, if it is below `m` (R173). -/
def below (m n : Nat) : Option (Fin m) := if h : n < m then some ⟨n, h⟩ else none

/-! ### Result codes (Table 10-9) -/

inductive ResultCode where
  | ok
  | firedBefore
  | nothingPending
  | unknownRequest
  | badLength
  | badField
  | denied
  | purging
  | stale
  | notOwner
  | notShared
  | wrongState
  | tableFull
  | quota
  | quotaSum
  | lineBusy
  | noTrigger
  | offerFull
  | alreadyOffered
  | noOffer
deriving DecidableEq, Repr

def ResultCode.byte : ResultCode → Byte
  | .ok => 0x00
  | .firedBefore => 0x01
  | .nothingPending => 0x02
  | .unknownRequest => 0x40
  | .badLength => 0x41
  | .badField => 0x42
  | .denied => 0x43
  | .purging => 0x44
  | .stale => 0x45
  | .notOwner => 0x46
  | .notShared => 0x47
  | .wrongState => 0x48
  | .tableFull => 0x49
  | .quota => 0x4A
  | .quotaSum => 0x4B
  | .lineBusy => 0x4C
  | .noTrigger => 0x4D
  | .offerFull => 0x4E
  | .alreadyOffered => 0x4F
  | .noOffer => 0x50

/-! ### The request catalogue (Table 10-1) -/

/-- The 32 request kinds. -/
inductive Kind where
  | create
  | retire
  | arm
  | disarm
  | revise
  | relabel
  | query
  | querySet
  | bindOutput
  | bindTrigger
  | unbind
  | collect
  | acknowledge
  | setMask
  | offer
  | accept
  | decline
  | withdraw
  | listOffers
  | readTime
  | startTime
  | stopTime
  | holdTime
  | releaseTime
  | setReleasePolicy
  | configureTrigger
  | configureOutput
  | setQuota
  | grantControl
  | revokeControl
  | purgeClient
  | deviceStatus
deriving DecidableEq, Repr

/-- The kind byte of a request (Table 10-1). -/
def Kind.code : Kind → Byte
  | .create => 0x01
  | .retire => 0x02
  | .arm => 0x03
  | .disarm => 0x04
  | .revise => 0x05
  | .relabel => 0x06
  | .query => 0x07
  | .querySet => 0x08
  | .bindOutput => 0x09
  | .bindTrigger => 0x0A
  | .unbind => 0x0B
  | .collect => 0x10
  | .acknowledge => 0x11
  | .setMask => 0x12
  | .offer => 0x18
  | .accept => 0x19
  | .decline => 0x1A
  | .withdraw => 0x1B
  | .listOffers => 0x1C
  | .readTime => 0x20
  | .startTime => 0x21
  | .stopTime => 0x22
  | .holdTime => 0x23
  | .releaseTime => 0x24
  | .setReleasePolicy => 0x25
  | .configureTrigger => 0x28
  | .configureOutput => 0x29
  | .setQuota => 0x30
  | .grantControl => 0x31
  | .revokeControl => 0x32
  | .purgeClient => 0x33
  | .deviceStatus => 0x34

/-- The request a kind byte names, if it is in the catalogue (R169, R171). -/
def kindOf (b : Byte) : Option Kind :=
  match b.toNat with
  | 0x01 => some .create
  | 0x02 => some .retire
  | 0x03 => some .arm
  | 0x04 => some .disarm
  | 0x05 => some .revise
  | 0x06 => some .relabel
  | 0x07 => some .query
  | 0x08 => some .querySet
  | 0x09 => some .bindOutput
  | 0x0A => some .bindTrigger
  | 0x0B => some .unbind
  | 0x10 => some .collect
  | 0x11 => some .acknowledge
  | 0x12 => some .setMask
  | 0x18 => some .offer
  | 0x19 => some .accept
  | 0x1A => some .decline
  | 0x1B => some .withdraw
  | 0x1C => some .listOffers
  | 0x20 => some .readTime
  | 0x21 => some .startTime
  | 0x22 => some .stopTime
  | 0x23 => some .holdTime
  | 0x24 => some .releaseTime
  | 0x25 => some .setReleasePolicy
  | 0x28 => some .configureTrigger
  | 0x29 => some .configureOutput
  | 0x30 => some .setQuota
  | 0x31 => some .grantControl
  | 0x32 => some .revokeControl
  | 0x33 => some .purgeClient
  | 0x34 => some .deviceStatus
  | _ => none

/-- Whether a request is a control request, marked with an asterisk in Table 10-1 (R172). -/
def Kind.isControl : Kind → Bool
  | .startTime | .stopTime | .holdTime | .releaseTime | .setReleasePolicy | .configureTrigger | .configureOutput
  | .setQuota | .grantControl | .revokeControl | .purgeClient => true
  | _ => false

/-- Whether a request passes step 4 in every purge state (R172). -/
def Kind.purgeExempt : Kind → Bool
  | .readTime | .deviceStatus => true
  | _ => false

/-! ### Fields of a request body (R180) -/

/-- Byte `i` of a body; the kind is byte 0, the sequence value byte 1, and the arguments follow. -/
def bodyByte (body : List Byte) (i : Nat) : Byte := body.getD i 0

/-- The 1-byte argument at byte `i`. -/
def arg1 (body : List Byte) (i : Nat) : Nat := (bodyByte body i).toNat

/-- The 2-byte argument at byte `i`, most significant byte first. -/
def arg2 (body : List Byte) (i : Nat) : Nat := arg1 body i * 256 + arg1 body (i + 1)

/-- The 3-byte argument at byte `i`. -/
def arg3 (body : List Byte) (i : Nat) : Nat := arg2 body i * 256 + arg1 body (i + 2)

/-- The 4-byte argument at byte `i`. -/
def arg4 (body : List Byte) (i : Nat) : Nat := arg3 body i * 256 + arg1 body (i + 3)

/-- The body length a kind requires: kind, sequence value, and the arguments of Table 10-1 at the widths of R181 (R171). -/
def Kind.bodyLength (body : List Byte) : Kind → Nat
  | .create => 10
  | .relabel => 8
  | .revise => 7
  | .querySet => 3 + 2 * arg1 body 2
  | .startTime => 9
  | .bindOutput | .bindTrigger | .unbind | .setQuota => 5
  | .offer => 8
  | .retire | .arm | .disarm | .query | .acknowledge | .accept | .decline | .withdraw | .configureTrigger
  | .configureOutput => 4
  | .collect | .setMask | .listOffers | .readTime | .stopTime | .holdTime | .releaseTime | .setReleasePolicy
  | .grantControl | .revokeControl | .purgeClient | .deviceStatus => 3

/-! ### Handles (R5, R180) -/

/-- A handle: a slot and a generation. -/
structure Handle where
  slot : SlotId
  generation : BitVec 5
deriving DecidableEq, Repr

/-- The handle of a 16-bit value: slot in bits 10..0, generation in bits 15..11. -/
def handleOf (n : Nat) : Handle :=
  { slot := ⟨n % 2048, Nat.mod_lt n (by decide)⟩, generation := BitVec.ofNat 5 (n / 2048) }

/-- The 16-bit value of a handle. -/
def Handle.value (h : Handle) : Nat := h.generation.toNat * 2048 + h.slot.val

/-- The handle argument at byte `i` of a body. -/
def argHandle (body : List Byte) (i : Nat) : Handle := handleOf (arg2 body i)

/-! ### The CRC (R184) -/

/-- One bit into the CRC register. -/
def crcBit (reg : Byte) (b : Bool) : Byte :=
  if reg.msb != b then (reg <<< 1) ^^^ 0x07 else reg <<< 1

/-- One byte into the CRC register, most significant bit first. -/
def crcByte (reg x : Byte) : Byte :=
  [x.getLsbD 7, x.getLsbD 6, x.getLsbD 5, x.getLsbD 4, x.getLsbD 3, x.getLsbD 2, x.getLsbD 1, x.getLsbD 0].foldl
    crcBit reg

/-- The CRC register after the bytes, from 0. -/
def crc (bytes : List Byte) : Byte := bytes.foldl crcByte 0

/-- The length byte of a body and the body: what the CRC covers. -/
def lengthAndBody (body : List Byte) : List Byte := BitVec.ofNat 8 body.length :: body

/-- A frame: length byte, body, CRC byte (R154, R158). -/
def frame (body : List Byte) : List Byte := lengthAndBody body ++ [crc (lengthAndBody body)]

/-- The body of a request frame, from the bytes clocked in after the SUBMIT code, or none where case 1 of R155 calls it
malformed: the length byte missing or outside 3..24, too few bytes after it, or the CRC not matching. Bytes after the CRC
byte are discarded. -/
def submittedBody : List Byte → Option (List Byte)
  | [] => none
  | len :: rest =>
    if len.toNat < 3 ∨ 24 < len.toNat then none
    else if rest.length < len.toNat + 1 then none
    else if crc (len :: rest.take len.toNat) ≠ rest.getD len.toNat 0 then none
    else some (rest.take len.toNat)

end Sys2Proof.Machine
end

