-- ==== Sys2Proof/Machine/Flags.lean ====
section
/-! DEFINITION. What the part works out from its stored items whenever it is needed: the time-base state, activeness of a
trigger line, driven levels, ATTN, reservation counts and the port status. -/

namespace Sys2Proof.Machine

/-! ### Records and handles -/

/-- The record in a slot, if it is not FREE. -/
def recordAt (s : State) (i : SlotId) : Option Rec := (s.slots.get i).record

/-- The handle of a slot's record: the slot with the generation it holds (R5). -/
def handleAt (s : State) (i : SlotId) : Handle := { slot := i, generation := (s.slots.get i).generation }

/-- The live record a handle names, if it is live (R6). -/
def liveRecord (s : State) (h : Handle) : Option Rec :=
  if (s.slots.get h.slot).generation = h.generation then recordAt s h.slot else none

/-! ### The time base -/

/-- Time-base states (R23). -/
inductive TbState where
  | stopped
  | running
  | held
deriving DecidableEq, Repr

/-- The time-base state, derived from the stopped flag and the two hold sources (R23). -/
def tbState (t : TimeBase) : TbState :=
  if t.stopped then .stopped else if t.requestHold || t.lineHold then .held else .running

/-- Codes of the time-base state (Table 10-8). -/
def TbState.code : TbState → Nat
  | .stopped => 0
  | .running => 1
  | .held => 2

/-- The time base allows an advance: it is RUNNING and the owed count is above 0 (R28). -/
def advanceAllowed (t : TimeBase) : Bool := decide (tbState t = .running) && decide (0 < t.owed)

/-- The offer lies ahead of table time by 1 tick (R51). -/
def atLastTick (s : State) (o : Offer) : Bool := decide (ahead s.tableTime o.lapse = 1)

/-- The effect of the release policy on the owed count, where a change of the hold sources from `old` to `new` takes the time
base from HELD to RUNNING (R33). -/
def release (old new : TimeBase) : TimeBase :=
  if tbState old = .held ∧ tbState new = .running then
    match new.policy with
    | .catchUp => new
    | .slip => { new with owed := 0 }
  else new

/-! ### Lines -/

/-- A trigger line is active when its last detected level equals its active polarity (R100). -/
def TrgLine.active (l : TrgLine) : Bool := decide (l.level = l.polarity)

/-- The driven level of an event output line whose bound record has output level `out`, absent for an unbound line
(Table 6-1). -/
def drivenLevel (idle : Level) (out : Option OutLevel) : Level :=
  match out with
  | some .active => idle.other
  | some .inactive => idle
  | none => idle

/-- The output level of the record bound to an event output line. -/
def boundLevel (s : State) (l : EvtLine) : Option OutLevel :=
  match l.bound with
  | none => none
  | some i => (recordAt s i).bind Rec.outputLevel

/-! ### Attention and offers -/

/-- The priority of the record in a slot. -/
def priorityAt (s : State) (i : SlotId) : Nat :=
  match recordAt s i with
  | none => 0
  | some r => r.priority.val

/-- Client `c` has an incoming offer (R126). -/
def incomingOffer (s : State) (c : Client) : Bool := s.offers.any fun o => decide (o.receiver = c)

/-- Whether ATTNc is to be driven asserted (R124). -/
def attnAsserts (s : State) (c : Client) : Bool :=
  (s.attn.get c).set.any (fun i => decide ((s.attn.get c).mask ≤ priorityAt s i))
    || (incomingOffer s c && decide ((s.attn.get c).mask < 4))

/-- The level on the ATTNc pin, which is asserted low (R1). -/
def attnPin (s : State) (c : Client) : Level := Signal.attn.level (s.attn.get c).line

/-- The open offer of the record in a slot (R136: at most one). -/
def offerOf (s : State) (i : SlotId) : Option Offer := s.offers.find? fun o => decide (o.record = i)

/-! ### Ports -/

/-- The discard mark of port `p`'s in-service marker, absent where the marker is absent (R151). -/
def serviceMark (s : State) (p : Client) : Option Bool :=
  match s.executor with
  | none => none
  | some r => if r.port = p then some r.discard else none

/-- The reservation count of a port (R151). -/
def reservation (s : State) (p : Client) : Nat :=
  (s.ports.get p).inbound.length + (if (serviceMark s p).isSome then 1 else 0) + (s.ports.get p).outbound.length

/-- The free inbound slots of the port status (R153). -/
def freeInbound (s : State) (p : Client) : Nat :=
  min (Config.inboundLimit - (s.ports.get p).inbound.length) (Config.reservationLimit - reservation s p)

/-- The two bytes of the port status (R153, Table 10-7). -/
def portStatus (s : State) (p : Client) : Byte × Byte :=
  (BitVec.ofNat 8 (freeInbound s p * 16 + (s.ports.get p).outbound.length),
   BitVec.ofNat 8 (bitsValue [s.purging.get p, (s.ports.get p).malformed, (s.ports.get p).refused, (s.attn.get p).line]))

/-- A transfer is ignored: it began while the port was in RESET, or a port reset or RESET ended it (R152, R166). -/
def Transfer.ignored (t : Transfer) : Bool := t.status.isNone || t.ended

/-- MISOn is at high impedance: SELn is high, or the port was in RESET when the transfer began or has been reset since
(R1, R165, R166). Where a reset ended the transfer and the port is READY again before SELn rises, MISOn stays at high impedance
until SELn rises: the model's choice, DESIGN CHOICE (log entry 21). -/
def misoHighZ (s : State) (p : Client) : Bool :=
  match (s.ports.get p).transfer with
  | none => true
  | some t => t.ignored

/-! ### Supervision -/

/-- The sum of the four quotas (R187). -/
def quotaSum (q : Table Nat 4) : Nat := q.get 0 + q.get 1 + q.get 2 + q.get 3

/-- Codes of a purge state (Table 10-8). -/
def purgeCode (purging : Bool) : Nat := if purging then 1 else 0

end Sys2Proof.Machine
end

