-- ==== Sys2Proof/Machine/Ops.lean ====
section
/-! DEFINITION. The operations the commands share, each on the blocks it names: the record table, the schedule, the line
unit, the attention unit, the offer unit, retirement, and the judging and answering of a request. -/

namespace Sys2Proof.Machine

/-! ### Updates of one entry of a table -/

/-- Writes the record of a slot; the generation stands. -/
def putRecord (s : State) (i : SlotId) (r : Rec) : State :=
  { s with slots := s.slots.set i { s.slots.get i with record := some r } }

/-- Changes the record of a slot, if the slot holds one. -/
def mapRecord (s : State) (i : SlotId) (f : Rec → Rec) : State :=
  match recordAt s i with
  | none => s
  | some r => putRecord s i (f r)

/-- Writes a port. -/
def putPort (s : State) (p : Client) (q : Port) : State := { s with ports := s.ports.set p q }

/-- Writes the attention state of a client. -/
def putAttn (s : State) (c : Client) (a : Attn) : State := { s with attn := s.attn.set c a }

/-- Writes an event output line. -/
def putEvt (s : State) (k : Line) (l : EvtLine) : State := { s with evt := s.evt.set k l }

/-- Writes a trigger line. -/
def putTrg (s : State) (k : Line) (l : TrgLine) : State := { s with trg := s.trg.set k l }

/-- Raises or sets an owned count (R10). -/
def putOwned (s : State) (c : Client) (n : Nat) : State := { s with owned := s.owned.set c n }

/-! ### The line unit -/

/-- Sets the driven level of an event output line from its idle polarity and its bound record's output level (R110). -/
def drive (s : State) (k : Line) : State :=
  putEvt s k { s.evt.get k with driven := drivenLevel (s.evt.get k).idle (boundLevel s (s.evt.get k)) }

/-- Drives the line of a record, where it is bound to one. -/
def driveBinding (s : State) (binding : Option Line) : State :=
  match binding with
  | none => s
  | some k => drive s k

/-- Releases an event output line: it becomes unbound and drives its idle polarity (R109, R110). -/
def releaseLine (s : State) (k : Line) : State :=
  putEvt s k { s.evt.get k with bound := none, driven := (s.evt.get k).idle }

/-- Removes a slot from an ordered list of slots; the others keep their order. -/
def dropSlot (i : SlotId) (l : List SlotId) : List SlotId := l.filter fun j => decide (j ≠ i)

/-- Removes a record from a trigger line's listener list (R103). -/
def unlisten (s : State) (k : Line) (i : SlotId) : State :=
  putTrg s k { s.trg.get k with listeners := dropSlot i (s.trg.get k).listeners }

/-! ### The schedule -/

/-- Places an entry after every entry that lies nearer table time and every entry with the same due time, and before every
entry that lies further ahead (R42, R44). -/
def placeEntry (now : Time) (e : Entry) : List Entry → List Entry
  | [] => [e]
  | x :: rest => if ahead now x.due ≤ ahead now e.due then x :: placeEntry now e rest else e :: x :: rest

/-- Takes a record's entry out of the schedule wherever it stands (R45). -/
def removeEntry (i : SlotId) (l : List Entry) : List Entry := l.filter fun e => decide (e.slot ≠ i)

/-- What an event does to a record's place in the schedule. -/
inductive SchedOp where
  | keep
  | remove
  /-- Insertion, or a move of an entry already there, at the tail of the due time (R44, R46). -/
  | place (due : Time)
deriving DecidableEq, Repr

/-- Applies a schedule operation to the record in slot `i`. -/
def reschedule (s : State) (i : SlotId) : SchedOp → State
  | .keep => s
  | .remove => { s with schedule := removeEntry i s.schedule }
  | .place due => { s with schedule := placeEntry s.tableTime { slot := i, due := due } (removeEntry i s.schedule) }

/-! ### The attention unit -/

/-- Recomputes ATTNc (R124, R125). -/
def refreshAttn (s : State) (c : Client) : State := putAttn s c { s.attn.get c with line := attnAsserts s c }

/-- Places a slot at the tail of its priority group: after the last entry of its priority or a higher one, before the first
of a lower (R119). -/
def joinGroup (priority : SlotId → Nat) (i : SlotId) : List SlotId → List SlotId
  | [] => [i]
  | j :: rest => if priority j < priority i then i :: j :: rest else j :: joinGroup priority i rest

/-- The record in slot `i` joins client `c`'s attention set. -/
def joinSet (s : State) (c : Client) (i : SlotId) : State :=
  putAttn s c { s.attn.get c with set := joinGroup (priorityAt s) i (s.attn.get c).set }

/-- The record in slot `i` leaves client `c`'s attention set, wherever it stands (R123). -/
def leaveSet (s : State) (c : Client) (i : SlotId) : State :=
  putAttn s c { s.attn.get c with set := dropSlot i (s.attn.get c).set }

/-- A firing of a record not unacknowledged (R120). -/
def firstFiring (now : Time) (r : Rec) : Rec :=
  { r with unacknowledged := true, firstFire := some now, overrun := 0, lastFire := some now }

/-- A further firing, which counts an overrun (R120). -/
def furtherFiring (now : Time) (r : Rec) : Rec :=
  { r with overrun := min Config.maxOverrun (r.overrun + 1), lastFire := some now }

/-- A firing of the record in slot `i` (R62, R120). -/
def fire (s : State) (i : SlotId) : State :=
  match recordAt s i with
  | none => s
  | some r =>
    if r.unacknowledged then refreshAttn (putRecord s i (furtherFiring s.tableTime r)) r.owner
    else refreshAttn (joinSet (putRecord s i (firstFiring s.tableTime r)) r.owner i) r.owner

/-- The fields a COLLECT or ACKNOWLEDGE leaves in a record it removes from its owner's set (R123). -/
def acknowledged (r : Rec) : Rec := { r with unacknowledged := false, firstFire := none, overrun := 0 }

/-! ### Events decided by a record's mode -/

/-- What an event makes of a record: its fields, its place in the schedule, and whether it fires (R58, R62). -/
structure Effect where
  record : Rec
  schedule : SchedOp
  fires : Bool
deriving DecidableEq, Repr

/-- Applies the effect of an event to the record in slot `i`: the fields, the bound EVT line, the schedule, and the firing
(R41, R59, R110, R120). -/
def applyEffect (s : State) (i : SlotId) (e : Effect) : State :=
  let placed := reschedule (driveBinding (putRecord s i e.record) e.record.outputBinding) i e.schedule
  if e.fires then fire placed i else placed

/-! ### The offer unit -/

/-- Removes the offer of the record in slot `i` and the record's offer field (R4, R136). -/
def removeOffer (s : State) (i : SlotId) : State :=
  mapRecord { s with offers := s.offers.filter fun o => decide (o.record ≠ i) } i fun r => { r with offered := false }

/-- Ends the offer `o`, and recomputes the receiving client's ATTN line (R126). -/
def endOffer (s : State) (o : Offer) : State := refreshAttn (removeOffer s o.record) o.receiver

/-- Ends offers one after another. -/
def endOffers (s : State) : List Offer → State
  | [] => s
  | o :: rest => endOffers (endOffer s o) rest

/-! ### Retirement (R14) -/

/-- Step 2 of R14: the release of the record's EVT line. -/
def retireOutput (s : State) (r : Rec) : State :=
  match r.outputBinding with
  | none => s
  | some k => releaseLine s k

/-- Step 3 of R14: removal from the listener list. -/
def retireTrigger (s : State) (i : SlotId) (r : Rec) : State :=
  match r.triggerBinding with
  | none => s
  | some k => unlisten s k i

/-- Step 4 of R14: removal from the owner's attention set. -/
def retireAttention (s : State) (i : SlotId) (r : Rec) : State :=
  if r.unacknowledged then refreshAttn (leaveSet s r.owner i) r.owner else s

/-- Step 5 of R14: removal of the record's offer. -/
def retireOffer (s : State) (i : SlotId) : State :=
  match offerOf s i with
  | none => s
  | some o => endOffer s o

/-- Steps 6 to 8 of R14: the slot becomes FREE at the next generation, joins the free list at its tail, and the owner's
count falls by one. -/
def freeSlot (s : State) (i : SlotId) (owner : Client) : State :=
  { s with
    slots := s.slots.set i { generation := (s.slots.get i).generation + 1, record := none }
    freeList := s.freeList ++ [i]
    owned := s.owned.set owner (s.owned.get owner - 1) }

/-- Retirement of the live record `r` in slot `i` (R14). -/
def retireRecord (s : State) (i : SlotId) (r : Rec) : State :=
  let unscheduled := if r.state = .armed then { s with schedule := removeEntry i s.schedule } else s
  freeSlot (retireOffer (retireAttention (retireTrigger (retireOutput unscheduled r) i r) i r) i) i r.owner

/-! ### Purge marking (R190) -/

/-- The offers a marking of client `c` removes: those it gives or receives. -/
def offersOf (s : State) (c : Client) : List Offer := s.offers.filter fun o => decide (o.giver = c ∨ o.receiver = c)

/-- Marks client `c` PURGING: its offers end, it joins the purge queue, and where the queue was empty with no scan in progress
a scan of it begins with the cursor at slot 0 (R190, R191). -/
def markClient (s : State) (c : Client) : State :=
  let ended := endOffers { s with purging := s.purging.set c true } (offersOf s c)
  { ended with
    purgeQueue := ended.purgeQueue ++ [c]
    cursor := if ended.purgeQueue = [] ∧ ended.cursor = none then some 0 else ended.cursor }

/-! ### Requests -/

/-- The outcome of judging a request: a refusal, which changes no state, or a success with its payload and the state after
the request's effects (R170, R175). -/
inductive Answer where
  | refuse (code : ResultCode)
  | accept (code : ResultCode) (payload : List Byte) (after : State)

/-- Posting: the response joins the tail of the port's outbound queue, or is discarded if the discard mark is set, and the
service ends (R163, R175). -/
def post (s : State) (r : Serving) (code : ResultCode) (payload : List Byte) : State :=
  if r.discard then { s with executor := none }
  else
    { s with
      executor := none
      ports := s.ports.set r.port
        { s.ports.get r.port with
          outbound := (s.ports.get r.port).outbound ++ [bodyByte r.body 0 :: bodyByte r.body 1 :: code.byte :: payload] } }

/-- Posts a refusal, which changes no other state (R170), or a success. -/
def respond (s : State) (r : Serving) : Answer → State
  | .refuse code => post s r code [0]
  | .accept code payload t => post t r code payload

/-- Steps 2 to 4 of the check order: body length, control set, purge state (R170 to R172). A PURGING client's own request naming a
record that the scan has retired is answered PURGING, as R170, R172 and R189 say, and not STALE, as the last paragraph of R192 says:
the model's choice, DESIGN CHOICE (log entry 23). -/
def generalCheck (s : State) (k : Kind) (r : Serving) : Option ResultCode :=
  if r.body.length ≠ k.bodyLength r.body then some .badLength
  else if k.isControl ∧ s.control.get r.port = false then some .denied
  else if s.purging.get r.port = true ∧ k.purgeExempt = false then some .purging
  else none

/-- Judges a request of kind `k`: the general checks, then the checks and effects `act` of its own rule. -/
def judge (s : State) (k : Kind) (r : Serving) (act : State → Serving → Answer) : Answer :=
  match generalCheck s k r with
  | some code => .refuse code
  | none => act s r

/-- The executor takes the request in service as one event, if it is of kind `k`, and posts its response (R162, R163). With
no request of that kind in service there is none to take, and nothing changes (log entry 2). -/
def takeRequest (s : State) (k : Kind) (act : State → Serving → Answer) : State :=
  match s.executor with
  | none => s
  | some r => if kindOf (bodyByte r.body 0) = some k then respond s r (judge s k r act) else s

/-- Steps 6 and 7 of the check order for a request that only the owner may make: STALE, then NOT_OWNER (R6, R8). -/
def withOwned (s : State) (c : Client) (h : Handle) (act : Rec → Answer) : Answer :=
  match liveRecord s h with
  | none => .refuse .stale
  | some r => if r.owner = c then act r else .refuse .notOwner

end Sys2Proof.Machine
end

