-- ==== Sys2Proof/Machine/Modes.lean ====
section
/-! DEFINITION. The mode rules (04_record_modes.md, 05_staged_periods.md): what ARM, DISARM, REVISE, an expiry, an assert and a
deassert make of a record, as functions of the record and the table time. -/

namespace Sys2Proof.Machine

/-- Writes a level a mode rule names, where the record has an output binding; elsewhere the level is not kept (R59). -/
def setLevel (r : Rec) (l : OutLevel) : Rec :=
  match r.outputBinding with
  | none => r
  | some _ => { r with outputLevel := some l }

/-- The toggle of a CYCLIC record's output level, where bound (R72). -/
def toggleLevel (r : Rec) : Rec :=
  match r.outputLevel with
  | none => r
  | some .inactive => setLevel r .active
  | some .active => setLevel r .inactive

/-- A staged period, if present, becomes the period and is removed (R90). -/
def takeStaged (r : Rec) : Rec :=
  match r.staged with
  | none => r
  | some p => { r with period := p, staged := none }

/-- The record ARMED with a due time, its remaining count removed. -/
def armedAt (r : Rec) (due : Time) : Rec := { r with state := .armed, dueTime := some due, remaining := none }

/-- The record in a state that holds no timing. -/
def untimed (r : Rec) (state : RecState) : Rec :=
  { r with state := state, dueTime := none, remaining := none, phase := none }

/-- The start of a HIGH half at point `from`: phase HIGH, output ACTIVE, due after ceil(P/2) (R75, R77, R78). -/
def startHigh (r : Rec) (origin : Time) : Rec :=
  setLevel { armedAt r (after origin (highHalf r.period)) with phase := some .high } .active

/-- The start of a LOW half at point `from`: phase LOW, output INACTIVE, due after floor(P/2) (R76). -/
def startLow (r : Rec) (origin : Time) : Rec :=
  setLevel { armedAt r (after origin (lowHalf r.period)) with phase := some .low } .inactive

/-- The place in the schedule a record's due time gives it. -/
def placed (r : Rec) : SchedOp :=
  match r.dueTime with
  | none => .remove
  | some due => .place due

/-- A record whose due time has been set, placed in the schedule, with or without a firing. -/
def timed (r : Rec) (fires : Bool) : Effect := { record := r, schedule := placed r, fires := fires }

/-- ARM under the record's mode, its gate active or not, once the staged period has been applied (R67, R71, R75, R80, R83). -/
def armRecord (now : Time) (active : Bool) (r : Rec) : Effect :=
  match r.mode with
  | .single =>
    if active then timed (armedAt (setLevel r .inactive) (after now r.period)) false
    else { record := { untimed (setLevel r .inactive) .suspended with remaining := some r.period }, schedule := .keep, fires := false }
  | .cyclic =>
    if active then timed (armedAt (setLevel r .inactive) (after now r.period)) false
    else { record := untimed (setLevel r .inactive) .suspended, schedule := .keep, fires := false }
  | .square =>
    if active then timed (startHigh r now) false
    else { record := untimed (setLevel r .inactive) .suspended, schedule := .keep, fires := false }
  | .delayed => { record := untimed (setLevel r .inactive) .waiting, schedule := .keep, fires := false }
  | .watch => timed (armedAt (setLevel r .inactive) (after now r.period)) false

/-- DISARM, the same in every mode: IDLE, timing and staged period removed, output INACTIVE (R65). -/
def disarmRecord (r : Rec) : Effect :=
  { record := setLevel { untimed r .idle with staged := none } .inactive, schedule := .remove, fires := false }

/-- The expiry rule of the record's mode (R70, R72, R76, R77, R82, R85). A SQUARE record with no phase is found in no run; it
is taken as ending a LOW half (log entry 17). -/
def expireRecord (now : Time) (r : Rec) : Effect :=
  match r.mode with
  | .single => { record := setLevel (untimed r .fired) .active, schedule := .remove, fires := true }
  | .watch => { record := setLevel (untimed r .fired) .active, schedule := .remove, fires := true }
  | .delayed => { record := setLevel (untimed r .waiting) .inactive, schedule := .remove, fires := true }
  | .cyclic =>
    let t := takeStaged (toggleLevel r)
    timed (armedAt t (after (r.dueTime.getD now) t.period)) true
  | .square =>
    match r.phase with
    | some .high => timed (startLow (takeStaged r) (r.dueTime.getD now)) false
    | some .low => timed (startHigh (takeStaged r) (r.dueTime.getD now)) true
    | none => timed (startHigh (takeStaged r) (r.dueTime.getD now)) true

/-- The rule of the record's mode for an assert, or none where the assert is contrary to its state (R60, R69, R73, R78, R81,
R84). A restart with a period of 1 leaves the record due at the next advance (log entry 22). -/
def assertRecord (now : Time) (r : Rec) : Option Effect :=
  match r.mode, r.state with
  | .single, .suspended => some (timed (armedAt r (after now (r.remaining.getD 0))) false)
  | .cyclic, .suspended => some (timed (armedAt (takeStaged r) (after now (takeStaged r).period)) false)
  | .square, .suspended => some (timed (startHigh (takeStaged r) now) false)
  | .delayed, .waiting => some (timed (setLevel (armedAt (takeStaged r) (after now (takeStaged r).period)) .active) false)
  | .delayed, .armed => some (timed (setLevel (armedAt (takeStaged r) (after now (takeStaged r).period)) .active) false)
  | .watch, .armed => some (timed (armedAt (takeStaged r) (after now (takeStaged r).period)) false)
  | _, _ => none

/-- The rule of the record's mode for a deassert, or none where the deassert is contrary to its state (R60, R68, R74, R79). -/
def deassertRecord (now : Time) (r : Rec) : Option Effect :=
  match r.mode, r.state with
  | .single, .armed =>
    some { record := { untimed r .suspended with remaining := some (ahead now (r.dueTime.getD now)) }, schedule := .remove,
           fires := false }
  | .cyclic, .armed => some { record := setLevel (untimed r .suspended) .inactive, schedule := .remove, fires := false }
  | .square, .armed => some { record := setLevel (untimed r .suspended) .inactive, schedule := .remove, fires := false }
  | _, _ => none

/-- The disposition of a REVISE (R97). -/
inductive Disposition where
  | replaced
  | staged
deriving DecidableEq, Repr

def Disposition.code : Disposition → Nat
  | .replaced => 0
  | .staged => 1

/-- Whether a REVISE replaces or stages, by mode and state (Table 5-1). A SINGLE record always replaces; the others replace in
IDLE and FIRED and stage in ARMED, SUSPENDED and WAITING. -/
def dispositionOf (r : Rec) : Disposition :=
  match r.mode, r.state with
  | .single, _ => .replaced
  | _, .idle => .replaced
  | _, .fired => .replaced
  | _, _ => .staged

/-- A replacement (R88): the period is written, a staged period removed, and the count of an ARMED or SUSPENDED SINGLE record
restarted. With a new period of 1 the due time is one tick ahead, and the next advance expires the record, as R88 with R47 says and
R50 and Table 5-4 do not: the model's choice, DESIGN CHOICE (log entry 22). -/
def replacePeriod (now : Time) (r : Rec) (p : Nat) : Effect :=
  match r.mode, r.state with
  | .single, .armed => timed { r with period := p, staged := none, dueTime := some (after now p) } false
  | .single, .suspended =>
    { record := { r with period := p, staged := none, remaining := some p }, schedule := .keep, fires := false }
  | _, _ => { record := { r with period := p, staged := none }, schedule := .keep, fires := false }

/-- A staging (R89): the staged period is written, and nothing else. -/
def stagePeriod (r : Rec) (p : Nat) : Effect :=
  { record := { r with staged := some p }, schedule := .keep, fires := false }

/-- REVISE of a record to period `p` (R87). -/
def reviseRecord (now : Time) (r : Rec) (p : Nat) : Effect :=
  match dispositionOf r with
  | .replaced => replacePeriod now r p
  | .staged => stagePeriod r p

/-- A period of 1 is out of range for CYCLIC and SQUARE records (R12, R87). -/
def periodTooShort (mode : Mode) (p : Nat) : Bool :=
  match mode with
  | .cyclic => decide (p = 1)
  | .square => decide (p = 1)
  | .single => false
  | .delayed => false
  | .watch => false

end Sys2Proof.Machine
end

