-- ==== Sys2Proof/Machine/Advance.lean ====
section
/-! DEFINITION. The schedule's own events: ADVANCE and EXPIRY (03_the_schedule_and_expiry.md). -/

namespace Sys2Proof.Machine

open Host (Outcome)

/-- The expiry of the record in slot `i`: the expiry rule of its mode (R48). -/
def expireAt (s : State) (i : SlotId) : State :=
  match recordAt s i with
  | none => s
  | some r => applyEffect s i (expireRecord s.tableTime r)

/-- Expiries one after another, each complete before the next (R48). -/
def expireAll (s : State) : List SlotId → State
  | [] => s
  | i :: rest => expireAll (expireAt s i) rest

/-- The records whose due time equals table time, in schedule order (R47). -/
def dueNow (s : State) : List SlotId := (s.schedule.filter fun e => decide (e.due = s.tableTime)).map Entry.slot

/-- Steps 1 and 2 of an advance: the owed count is lowered and table time incremented (R47). -/
def tick (s : State) : State :=
  { s with timeBase := { s.timeBase with owed := s.timeBase.owed - 1 }, tableTime := s.tableTime + 1 }

/-- The conditions of an advance: RUNNING, an advance owed, and no open offer at its last tick (R47, R51). -/
def advanceDue (s : State) : Bool := advanceAllowed s.timeBase && !(s.offers.any (atLastTick s))

/-- ADVANCE, whole: the owed count, table time, and the expiry of every record due at the new table time (R47). Where the
time base does not allow it, or an offer must lapse first, no advance is taken (log entry 2). -/
def execAdvance (s : State) : Outcome State Fault Refusal :=
  if advanceDue s then .next (expireAll (tick s) (dueNow (tick s))) else .next s

/-- EXPIRY: the record at the head of those due at table time expires (R48). Between advances no record is due at table time
(R43), and nothing changes; an ADVANCE takes the expiries of its tick within itself (log entry 11). -/
def execExpiry (s : State) : Outcome State Fault Refusal :=
  match dueNow s with
  | [] => .next s
  | i :: _ => .next (expireAt s i)

end Sys2Proof.Machine
end

