-- ==== Sys2Proof/Machine/Reports.lean ====
section
/-! DEFINITION. The record report of QUERY and QUERY-SET (R177, R183) and the entries of COLLECT and LIST-OFFERS (R178). -/

namespace Sys2Proof.Machine

/-- The output level bit of a report: 0 where absent (R183). -/
def outLevelBit : Option OutLevel → Bool
  | some .active => true
  | some .inactive => false
  | none => false

/-- The phase bit of a report: HIGH 1, and 0 where absent (R183). -/
def phaseBit : Option Phase → Bool
  | some .high => true
  | some .low => false
  | none => false

/-- A line nibble: 0 where the binding is absent (R183). -/
def lineNibble : Option Line → Nat
  | none => 0
  | some k => k.val

/-- The owner byte of a report: owner in bits 7..6, priority in 5..4, share 3, unacknowledged 2, output level 1, phase 0. -/
def ownerByte (r : Rec) : List Byte :=
  byte1 (r.owner.val * 64 + r.priority.val * 16
    + bitsValue [phaseBit r.phase, outLevelBit r.outputLevel, r.unacknowledged, r.share])

/-- The presence byte of a report (Table 10-10). -/
def reportPresence (r : Rec) (offered : Option Offer) : List Byte :=
  presence [r.staged.isSome, r.outputBinding.isSome, r.triggerBinding.isSome, r.lastFire.isSome, offered.isSome]

/-- The line byte of a report, sent when either binding is present. -/
def lineByte (r : Rec) : List Byte :=
  if r.outputBinding.isSome || r.triggerBinding.isSome then
    byte1 (lineNibble r.triggerBinding * 16 + lineNibble r.outputBinding)
  else []

/-- The receiving client and the ticks to lapse of an offer. -/
def offerItem (now : Time) (o : Offer) : List Byte := byte1 o.receiver.val ++ byte3 (ahead now o.lapse)

/-- The report of the record `r` named by `h`, at table time `now`, with its open offer (Table 10-10). -/
def recordReport (now : Time) (h : Handle) (r : Rec) (offered : Option Offer) : List Byte :=
  byte2 h.value ++ byte1 (r.state.code * 16 + r.mode.code) ++ ownerByte r ++ reportPresence r offered
    ++ byte3 r.period ++ byte2 r.tag.toNat ++ byte1 r.overrun
    ++ optBytes byte3 r.staged ++ optBytes (timeAndTicks now) r.dueTime ++ optBytes byte3 r.remaining ++ lineByte r
    ++ optBytes timeBytes r.firstFire ++ optBytes timeBytes r.lastFire ++ optBytes (offerItem now) offered

/-- The open offer a record's offer field refers to. -/
def offerField (s : State) (i : SlotId) (r : Rec) : Option Offer := if r.offered then offerOf s i else none

/-- The result of reading one record (R18): STALE, NOT_SHARED, or the report. -/
def readRecord (s : State) (c : Client) (h : Handle) : ResultCode × List Byte :=
  match liveRecord s h with
  | none => (.stale, [])
  | some r =>
    if r.owner = c ∨ r.share = true then (.ok, recordReport s.tableTime h r (offerField s h.slot r)) else (.notShared, [])

/-- The entry of a QUERY-SET for one handle (R177). -/
def setEntry (s : State) (c : Client) (h : Handle) : List Byte :=
  match readRecord s c h with
  | (.ok, report) => ResultCode.ok.byte :: report
  | (code, _) => code.byte :: byte2 h.value

/-- The entries laid: each in order for as long as the next whole entry fits in `room` bytes (R177). -/
def layEntries (room : Nat) : List (List Byte) → List (List Byte)
  | [] => []
  | e :: rest => if e.length ≤ room then e :: layEntries (room - e.length) rest else []

/-- The handles named by a QUERY-SET: `count` of them from byte `i` of the body. -/
def handlesFrom (body : List Byte) (i : Nat) : Nat → List Handle
  | 0 => []
  | n + 1 => argHandle body i :: handlesFrom body (i + 2) n

/-- The report of one entry of an attention set (R128, R178). -/
def collectReport (s : State) (i : SlotId) : List Byte :=
  match recordAt s i with
  | none => []
  | some r =>
    byte2 (handleAt s i).value ++ byte2 r.tag.toNat ++ byte1 r.priority.val ++ timeBytes (r.firstFire.getD 0)
      ++ timeBytes (r.lastFire.getD 0) ++ byte1 r.overrun

/-- The report of one incoming offer (R147, R178). -/
def offerReport (s : State) (o : Offer) : List Byte :=
  byte2 (handleAt s o.record).value ++ byte1 o.giver.val ++ byte3 (ahead s.tableTime o.lapse)

end Sys2Proof.Machine
end

