-- ==== Sys2Proof/Machine/Attention.lean ====
section
/-! DEFINITION. COLLECT, ACKNOWLEDGE and SET-MASK (07_attention.md). -/

namespace Sys2Proof.Machine

open Host (Outcome)

/-- Removes one record from client `c`'s set and clears its report of the firing (R123). -/
def takeEntry (s : State) (c : Client) (i : SlotId) : State := mapRecord (leaveSet s c i) i acknowledged

/-- Removes records one after another (R127). -/
def takeEntries (s : State) (c : Client) : List SlotId → State
  | [] => s
  | i :: rest => takeEntries (takeEntry s c i) c rest

/-- The entries remaining and the ATTN level, as COLLECT and ACKNOWLEDGE report them (R128, R129). -/
def remainingAndLine (s : State) (c : Client) : List Byte :=
  byte2 (s.attn.get c).set.length ++ yesNo (s.attn.get c).line

/-- COLLECT: count (R127, R128). -/
def collectAnswer (s : State) (r : Serving) : Answer :=
  if arg1 r.body 2 = 0 ∨ Config.listLimit < arg1 r.body 2 then .refuse .badField
  else
    let taken := (s.attn.get r.port).set.take (arg1 r.body 2)
    let t := refreshAttn (takeEntries s r.port taken) r.port
    .accept .ok (byte1 taken.length ++ taken.flatMap (collectReport s) ++ remainingAndLine t r.port) t

/-- COLLECT (R127). -/
def execCollect (s : State) : Outcome State Fault Refusal := .next (takeRequest s .collect collectAnswer)

/-- The payload of an ACKNOWLEDGE (R129, R176). -/
def acknowledgePayload (t : State) (c : Client) (first last : Option Time) (overrun : Nat) : List Byte :=
  presence [first.isSome, last.isSome] ++ byte1 overrun ++ remainingAndLine t c ++ optBytes timeBytes first
    ++ optBytes timeBytes last

/-- ACKNOWLEDGE: handle (R129). -/
def acknowledgeAnswer (s : State) (r : Serving) : Answer :=
  withOwned s r.port (argHandle r.body 2) fun x =>
    if (argHandle r.body 2).slot ∈ (s.attn.get r.port).set then
      let t := refreshAttn (takeEntry s r.port (argHandle r.body 2).slot) r.port
      .accept .ok (acknowledgePayload t r.port x.firstFire x.lastFire x.overrun) t
    else .accept .nothingPending (acknowledgePayload s r.port none x.lastFire 0) s

/-- ACKNOWLEDGE (R129). -/
def execAcknowledge (s : State) : Outcome State Fault Refusal := .next (takeRequest s .acknowledge acknowledgeAnswer)

/-- SET-MASK: mask level (R130). -/
def setMaskAnswer (s : State) (r : Serving) : Answer :=
  if 4 < arg1 r.body 2 then .refuse .badField
  else
    let t := refreshAttn (putAttn s r.port { s.attn.get r.port with mask := arg1 r.body 2 }) r.port
    .accept .ok (byte1 (arg1 r.body 2) ++ byte1 (s.attn.get r.port).mask ++ remainingAndLine t r.port) t

/-- SET-MASK (R130). -/
def execSetMask (s : State) : Outcome State Fault Refusal := .next (takeRequest s .setMask setMaskAnswer)

end Sys2Proof.Machine
end

