-- ==== Sys2Proof/Machine/Lines.lean ====
section
/-! DEFINITION. The line unit's requests and the delivery of trigger events (06_trigger_lines_and_event_outputs.md). -/

namespace Sys2Proof.Machine

open Host (Outcome)

/-- The position of a slot in a list, counted from 1 at the head; 0 where it is not there. -/
def positionIn (i : SlotId) : List SlotId → Nat
  | [] => 0
  | j :: rest => if j = i then 1 else if positionIn i rest = 0 then 0 else positionIn i rest + 1

/-- Steps 6 to 8 for a request that needs an IDLE record of the requester (R107, R111, R112). -/
def withIdle (s : State) (c : Client) (h : Handle) (act : Rec → Answer) : Answer :=
  withOwned s c h fun x => if x.state = .idle then act x else .refuse .wrongState

/-- Releases the EVT line a record is bound to, if any. -/
def releaseBinding (s : State) : Option Line → State
  | none => s
  | some k => releaseLine s k

/-- Removes a record from the listener list it is on, if any. -/
def unlistenBinding (s : State) (i : SlotId) : Option Line → State
  | none => s
  | some k => unlisten s k i

/-- The effects of a BIND-OUTPUT of the record `x` in slot `i` to line `k`: nothing where it is bound there already; elsewhere
any other line it holds is released, the binding and an INACTIVE level are written, and the line's bound record is set
(R111). -/
def bindOutputRecord (s : State) (i : SlotId) (x : Rec) (k : Line) : State :=
  if x.outputBinding = some k then s
  else
    let released := releaseBinding s x.outputBinding
    let written := putRecord released i { x with outputBinding := some k, outputLevel := some .inactive }
    drive (putEvt written k { written.evt.get k with bound := some i }) k

/-- The payload of a BIND-OUTPUT or CONFIGURE-OUTPUT: line, idle polarity, driven level (R176). -/
def outputPayload (s : State) (k : Line) : List Byte :=
  byte1 k.val ++ byte1 (levelCode (s.evt.get k).idle) ++ byte1 (levelCode (s.evt.get k).driven)

/-- The line is bound to a record other than the one in slot `i` (R111, step 6). -/
def boundElsewhere (s : State) (k : Line) (i : SlotId) : Bool :=
  match (s.evt.get k).bound with
  | none => false
  | some j => decide (j ≠ i)

/-- BIND-OUTPUT: handle, line (R111). -/
def bindOutputAnswer (s : State) (r : Serving) : Answer :=
  match below 16 (arg1 r.body 4) with
  | none => .refuse .badField
  | some k =>
    withIdle s r.port (argHandle r.body 2) fun x =>
      if boundElsewhere s k (argHandle r.body 2).slot then .refuse .lineBusy
      else
        .accept .ok (outputPayload (bindOutputRecord s (argHandle r.body 2).slot x k) k)
          (bindOutputRecord s (argHandle r.body 2).slot x k)

/-- BIND-OUTPUT (R111). -/
def execBindOutput (s : State) : Outcome State Fault Refusal := .next (takeRequest s .bindOutput bindOutputAnswer)

/-- The effects of a BIND-TRIGGER of the record `x` in slot `i` to line `k`: nothing where it is bound there already; elsewhere
it leaves any other line's list, the binding is written, and it joins the tail of the line's list (R107). -/
def bindTriggerRecord (s : State) (i : SlotId) (x : Rec) (k : Line) : State :=
  if x.triggerBinding = some k then s
  else
    let unlistened := unlistenBinding s i x.triggerBinding
    let written := putRecord unlistened i { x with triggerBinding := some k }
    putTrg written k { written.trg.get k with listeners := (written.trg.get k).listeners ++ [i] }

/-- The items of a trigger line that BIND-TRIGGER and CONFIGURE-TRIGGER report (R176). -/
def triggerPayload (s : State) (k : Line) : List Byte :=
  byte1 k.val ++ byte1 (levelCode (s.trg.get k).polarity) ++ byte1 (levelCode (s.trg.get k).level)
    ++ yesNo (s.trg.get k).active

/-- BIND-TRIGGER: handle, line (R107). -/
def bindTriggerAnswer (s : State) (r : Serving) : Answer :=
  match below 16 (arg1 r.body 4) with
  | none => .refuse .badField
  | some k =>
    withIdle s r.port (argHandle r.body 2) fun x =>
      let t := bindTriggerRecord s (argHandle r.body 2).slot x k
      .accept .ok (triggerPayload t k ++ byte2 (positionIn (argHandle r.body 2).slot (t.trg.get k).listeners)) t

/-- BIND-TRIGGER (R107). -/
def execBindTrigger (s : State) : Outcome State Fault Refusal := .next (takeRequest s .bindTrigger bindTriggerAnswer)

/-- The effects of an UNBIND of the output binding (R112). -/
def unbindOutput (s : State) (i : SlotId) (x : Rec) : State :=
  match x.outputBinding with
  | none => s
  | some k => releaseLine (putRecord s i { x with outputBinding := none, outputLevel := none }) k

/-- The effects of an UNBIND of the trigger binding (R112). -/
def unbindTrigger (s : State) (i : SlotId) (x : Rec) : State :=
  match x.triggerBinding with
  | none => s
  | some k => unlisten (putRecord s i { x with triggerBinding := none }) k i

/-- The binding of the named kind a record holds. -/
def bindingOf (x : Rec) : BindingKind → Option Line
  | .output => x.outputBinding
  | .trigger => x.triggerBinding

/-- The effects of an UNBIND (R112). -/
def unbindRecord (s : State) (i : SlotId) (x : Rec) : BindingKind → State
  | .output => unbindOutput s i x
  | .trigger => unbindTrigger s i x

/-- The payload of an UNBIND: presence, kind, released line (R176). -/
def unbindPayload (kind : BindingKind) (released : Option Line) : List Byte :=
  presence [released.isSome] ++ byte1 kind.code ++ optBytes (fun k => byte1 k.val) released

/-- UNBIND: handle, binding kind (R112). -/
def unbindAnswer (s : State) (r : Serving) : Answer :=
  match bindingKindOf (arg1 r.body 4) with
  | none => .refuse .badField
  | some kind =>
    withIdle s r.port (argHandle r.body 2) fun x =>
      .accept .ok (unbindPayload kind (bindingOf x kind)) (unbindRecord s (argHandle r.body 2).slot x kind)

/-- UNBIND (R112). -/
def execUnbind (s : State) : Outcome State Fault Refusal := .next (takeRequest s .unbind unbindAnswer)

/-- CONFIGURE-TRIGGER: line, polarity (R108). -/
def configureTriggerAnswer (s : State) (r : Serving) : Answer :=
  match below 16 (arg1 r.body 2), levelOf (arg1 r.body 3) with
  | some k, some polarity =>
    if (s.trg.get k).listeners ≠ [] then .refuse .lineBusy
    else
      let t := putTrg s k { s.trg.get k with polarity := polarity }
      .accept .ok (triggerPayload t k) t
  | _, _ => .refuse .badField

/-- CONFIGURE-TRIGGER (R108). -/
def execConfigureTrigger (s : State) : Outcome State Fault Refusal :=
  .next (takeRequest s .configureTrigger configureTriggerAnswer)

/-- CONFIGURE-OUTPUT: line, polarity (R113). -/
def configureOutputAnswer (s : State) (r : Serving) : Answer :=
  match below 16 (arg1 r.body 2), levelOf (arg1 r.body 3) with
  | some k, some polarity =>
    if (s.evt.get k).bound ≠ none then .refuse .lineBusy
    else
      let t := putEvt s k { s.evt.get k with idle := polarity, driven := polarity }
      .accept .ok (outputPayload t k) t
  | _, _ => .refuse .badField

/-- CONFIGURE-OUTPUT (R113). -/
def execConfigureOutput (s : State) : Outcome State Fault Refusal :=
  .next (takeRequest s .configureOutput configureOutputAnswer)

/-- The rule of a record's mode for a trigger event: an assert or a deassert (R60). -/
def eventRule (assert : Bool) (now : Time) (r : Rec) : Option Effect :=
  if assert then assertRecord now r else deassertRecord now r

/-- Delivers a trigger event to the record in slot `i`, which takes it under its own mode rule or ignores it (R60, R104). -/
def deliver (assert : Bool) (s : State) (i : SlotId) : State :=
  match recordAt s i with
  | none => s
  | some r =>
    match eventRule assert s.tableTime r with
    | none => s
    | some e => applyEffect s i e

/-- Delivers a trigger event to the listeners, from head to tail (R104). -/
def deliverAll (assert : Bool) (s : State) : List SlotId → State
  | [] => s
  | i :: rest => deliverAll assert (deliver assert s i) rest

/-- TRIGGER_EVENT: a detected change of TRGk to `level`. The level is written, the event is classified against the active
polarity, and it is delivered to the listener list (R102, R104). A level equal to the one last detected is no change, so no
event is taken (log entry 2). -/
def execTriggerEvent (k : Line) (level : Level) (s : State) : Outcome State Fault Refusal :=
  if (s.trg.get k).level = level then .next s
  else
    .next
      (deliverAll (decide (level = (s.trg.get k).polarity)) (putTrg s k { s.trg.get k with level := level })
        (s.trg.get k).listeners)

end Sys2Proof.Machine
end

