-- ==== Sys2Proof/Machine/Offers.lean ====
section
/-! DEFINITION. The offer unit's requests and the lapse of an offer (08_handing_over_records.md). -/

namespace Sys2Proof.Machine

open Host (Outcome)

/-- The effects of an OFFER of the record in slot `i` (R139). -/
def openOffer (s : State) (i : SlotId) (x : Rec) (o : Offer) : State :=
  refreshAttn (putRecord { s with offers := s.offers ++ [o] } i { x with offered := true }) o.receiver

/-- The offer an OFFER opens (R139). -/
def newOffer (s : State) (i : SlotId) (giver receiver : Client) (interval : Nat) : Offer :=
  { record := i, giver := giver, receiver := receiver, lapse := after s.tableTime interval }

/-- The payload of an OFFER: lapse time, ticks to lapse, offer count (R176). -/
def offerPayload (t : State) (o : Offer) : List Byte := timeAndTicks t.tableTime o.lapse ++ byte1 t.offers.length

/-- Steps 5 to 7 of R138, and the opening. -/
def offerRecord (s : State) (r : Serving) (x : Rec) (receiver : Client) (interval : Nat) : Answer :=
  if x.offered then .refuse .alreadyOffered
  else if s.purging.get receiver then .refuse .purging
  else if Config.offerLimit ≤ s.offers.length then .refuse .offerFull
  else
    let o := newOffer s (argHandle r.body 2).slot r.port receiver interval
    let t := openOffer s (argHandle r.body 2).slot x o
    .accept .ok (offerPayload t o) t

/-- OFFER: handle, receiving client, lapse interval (R138). -/
def offerAnswer (s : State) (r : Serving) : Answer :=
  match below 4 (arg1 r.body 4) with
  | none => .refuse .badField
  | some receiver =>
    if receiver = r.port ∨ arg3 r.body 5 = 0 then .refuse .badField
    else withOwned s r.port (argHandle r.body 2) fun x => offerRecord s r x receiver (arg3 r.body 5)

/-- OFFER (R138, R139). -/
def execOffer (s : State) : Outcome State Fault Refusal := .next (takeRequest s .offer offerAnswer)

/-- Steps 6 and 9 of ACCEPT and DECLINE: STALE, and NO_OFFER unless the record has an open offer whose receiving client is the
requester (R140, R142). -/
def withIncoming (s : State) (c : Client) (h : Handle) (act : Rec → Offer → Answer) : Answer :=
  match liveRecord s h with
  | none => .refuse .stale
  | some x =>
    match offerOf s h.slot with
    | none => .refuse .noOffer
    | some o => if o.receiver = c then act x o else .refuse .noOffer

/-- The move of an unacknowledged record's entry to the new owner's set (R122). -/
def moveEntry (s : State) (i : SlotId) (x : Rec) (h : Client) : State :=
  if x.unacknowledged then joinSet (leaveSet s x.owner i) h i else s

/-- The effects of an ACCEPT by client `h` of the record `x` in slot `i` (R141). -/
def acceptRecord (s : State) (i : SlotId) (x : Rec) (h : Client) : State :=
  let handed := putRecord (removeOffer s i) i { x with owner := h, offered := false }
  let lowered := putOwned handed x.owner (handed.owned.get x.owner - 1)
  let counted := putOwned lowered h (lowered.owned.get h + 1)
  refreshAttn (refreshAttn (moveEntry counted i x h) x.owner) h

/-- The payload of an ACCEPT (R141, R176). -/
def acceptPayload (t : State) (i : SlotId) (x : Rec) (o : Offer) (h : Client) : List Byte :=
  presence [x.outputBinding.isSome, x.triggerBinding.isSome] ++ byte2 (handleAt t i).value ++ byte1 o.giver.val
    ++ byte1 x.mode.code ++ byte1 x.state.code ++ byte2 x.tag.toNat ++ byte1 x.priority.val ++ yesNo x.share
    ++ yesNo x.unacknowledged ++ byte1 (if x.unacknowledged then x.overrun else 0) ++ byte2 (t.owned.get h)
    ++ optBytes (fun k => byte1 k.val) x.outputBinding ++ optBytes (fun k => byte1 k.val) x.triggerBinding

/-- ACCEPT: handle (R140). -/
def acceptAnswer (s : State) (r : Serving) : Answer :=
  withIncoming s r.port (argHandle r.body 2) fun x o =>
    if s.quota.get r.port ≤ s.owned.get r.port then .refuse .quota
    else
      let t := acceptRecord s (argHandle r.body 2).slot x r.port
      .accept .ok (acceptPayload t (argHandle r.body 2).slot x o r.port) t

/-- ACCEPT (R140, R141). -/
def execAccept (s : State) : Outcome State Fault Refusal := .next (takeRequest s .accept acceptAnswer)

/-- DECLINE: handle (R142). -/
def declineAnswer (s : State) (r : Serving) : Answer :=
  withIncoming s r.port (argHandle r.body 2) fun _ o => .accept .ok (byte1 o.giver.val) (endOffer s o)

/-- DECLINE (R142). -/
def execDecline (s : State) : Outcome State Fault Refusal := .next (takeRequest s .decline declineAnswer)

/-- WITHDRAW: handle (R143). -/
def withdrawAnswer (s : State) (r : Serving) : Answer :=
  withOwned s r.port (argHandle r.body 2) fun _ =>
    match offerOf s (argHandle r.body 2).slot with
    | none => .refuse .noOffer
    | some o => .accept .ok (byte1 o.receiver.val ++ byte3 (ahead s.tableTime o.lapse)) (endOffer s o)

/-- WITHDRAW (R143). -/
def execWithdraw (s : State) : Outcome State Fault Refusal := .next (takeRequest s .withdraw withdrawAnswer)

/-- The offers addressed to a client, oldest first (R147). -/
def incomingOffers (s : State) (c : Client) : List Offer := s.offers.filter fun o => decide (o.receiver = c)

/-- LIST-OFFERS (R147, R178). -/
def listOffersAnswer (s : State) (r : Serving) : Answer :=
  let listed := (incomingOffers s r.port).take Config.listLimit
  .accept .ok
    (byte1 listed.length ++ listed.flatMap (offerReport s) ++ byte1 ((incomingOffers s r.port).length - listed.length)) s

/-- LIST-OFFERS (R147). -/
def execListOffers (s : State) : Outcome State Fault Refusal := .next (takeRequest s .listOffers listOffersAnswer)

/-- LAPSE of the offer of the record in slot `i`: taken when the time base allows an advance and the offer lies 1 tick ahead
(R51, R144). Elsewhere no lapse is taken and nothing changes (log entry 2). -/
def execLapse (i : SlotId) (s : State) : Outcome State Fault Refusal :=
  match offerOf s i with
  | none => .next s
  | some o =>
    if advanceAllowed s.timeBase = true ∧ atLastTick s o = true then .next (endOffer s o) else .next s

end Sys2Proof.Machine
end

