-- ==== Sys2Proof/Machine/Ports.lean ====
section
/-! DEFINITION. The client ports: transfers, selection, port reset, and RESET (09_client_ports.md). -/

namespace Sys2Proof.Machine

open Host (Outcome)

/-! ### Pins -/

/-- An input changes to a level and the change is detected: the command it is joins the waiting ones (R1). -/
def detect (s : State) (x : Input) (l : Level) : State := { s with pending := s.pending ++ (detectedChange x l).toList }

/-! ### Transfers -/

/-- A transfer at the fall of SELn: the port status captured, none where the port is in RESET (R153, R166). -/
def freshTransfer (s : State) (p : Client) : Transfer :=
  { status := if (s.ports.get p).state = .ready then some (portStatus s p) else none, ended := false, chosen := none }

/-- The transfer in progress on a port, or one whose SELn has just fallen (log entry 5). -/
def currentTransfer (s : State) (p : Client) : Transfer := ((s.ports.get p).transfer).getD (freshTransfer s p)

/-- SELn falls: a transfer begins (R152, R153). While one is in progress SELn is low, and it cannot fall (log entry 2). -/
def selFalls (s : State) (p : Client) : State :=
  match (s.ports.get p).transfer with
  | none => putPort s p { s.ports.get p with transfer := some (freshTransfer s p) }
  | some _ => s

/-- The complete bytes shifted out on MISOn in a transfer of `n` complete bytes: the status, then `tail`, then 0xFF (R154,
R158); high impedance for a transfer that began in RESET (R166); none recorded where a reset ended the transfer (log entry 6). -/
def shiftedOut (t : Transfer) (n : Nat) (tail : List Byte) : List (Option Byte) :=
  if t.ended then []
  else
    match t.status with
    | none => List.replicate n none
    | some (a, b) => ((a :: b :: tail ++ List.replicate n 0xFF).take n).map some

/-- Ends a transfer on a port: SELn is high, and what was shifted out is recorded. -/
def closed (q : Port) (t : Transfer) (n : Nat) (tail : List Byte) : Port :=
  { q with transfer := none, shifted := shiftedOut t n tail }

/-- The judgment of a SUBMIT of the bytes `mosi` after the SUBMIT code: malformed, refused, or accepted (R155). -/
def judgeSubmit (s : State) (p : Client) (mosi : List Byte) : Port :=
  match submittedBody mosi with
  | none => { s.ports.get p with malformed := true, refused := false }
  | some body =>
    if Config.inboundLimit ≤ (s.ports.get p).inbound.length ∨ Config.reservationLimit ≤ reservation s p then
      { s.ports.get p with malformed := false, refused := true }
    else { s.ports.get p with malformed := false, refused := false, inbound := (s.ports.get p).inbound ++ [body] }

/-- SELn rises at the end of a SUBMIT (R155). An ignored transfer is not judged. A transfer whose first byte is not the SUBMIT code
(R179), or already recognised as a FETCH, is no SUBMIT (log entry 2). -/
def submitRises (s : State) (p : Client) (mosi : List Byte) : State :=
  let t := currentTransfer s p
  if t.ignored then putPort s p (closed (s.ports.get p) t mosi.length [])
  else if t.chosen ≠ none ∨ transferKind mosi ≠ .submit then s
  else putPort s p (closed (judgeSubmit s p mosi.tail) t mosi.length [])

/-- SUBMIT (R152 to R155). -/
def execSubmit (p : Client) (edge : SelEdge) (s : State) : Outcome State Fault Refusal :=
  match edge with
  | .falls => .next (selFalls s p)
  | .rises mosi => .next (submitRises s p mosi)

/-- The choice of the response a FETCH sends: the head of the outbound queue, or none (R158). -/
def chooseResponse (s : State) (p : Client) : Option (List Byte) := (s.ports.get p).outbound.head?

/-- What a FETCH shifts out after the status: the frame of the chosen response, or the zero length byte (R158). -/
def fetchTail : Option (List Byte) → List Byte
  | none => [0]
  | some body => frame body

/-- Every byte of the chosen response's frame, up to and including the CRC, has been clocked out in a transfer of `n` complete
bytes (R159). -/
def fetchComplete (chosen : Option (List Byte)) (n : Nat) : Bool :=
  match chosen with
  | none => false
  | some body => decide (2 + (frame body).length ≤ n)

/-- The outbound queue after a FETCH (R159). -/
def fetchedQueue (q : Port) (chosen : Option (List Byte)) (n : Nat) : Port :=
  if fetchComplete chosen n then { q with outbound := q.outbound.tail } else q

/-- SELn rises at the end of a FETCH (R159). The bytes after its code are discarded (R158). Where the choice was not made by an
earlier FETCH_CODE_RECOGNISED it is made here (log entry 5). A transfer whose first byte is not the FETCH code (R179) is no FETCH
(log entry 2). -/
def fetchRises (s : State) (p : Client) (mosi : List Byte) : State :=
  let t := currentTransfer s p
  if t.ignored then putPort s p (closed (s.ports.get p) t mosi.length [])
  else if transferKind mosi ≠ .fetch then s
  else
    let chosen := t.chosen.getD (chooseResponse s p)
    putPort s p (closed (fetchedQueue (s.ports.get p) chosen mosi.length) t mosi.length (fetchTail chosen))

/-- FETCH (R158, R159). -/
def execFetch (p : Client) (edge : SelEdge) (s : State) : Outcome State Fault Refusal :=
  match edge with
  | .falls => .next (selFalls s p)
  | .rises mosi => .next (fetchRises s p mosi)

/-- FETCH_CODE_RECOGNISED: the first byte is complete and is the FETCH code, and the response is chosen (R158). In an ignored
transfer no code is recognised, and a choice once made stands (log entry 2). -/
def execFetchCodeRecognised (p : Client) (s : State) : Outcome State Fault Refusal :=
  let t := currentTransfer s p
  if t.ignored ∨ t.chosen ≠ none then .next (selFalls s p)
  else .next (putPort s p { s.ports.get p with transfer := some { t with chosen := some (chooseResponse s p) } })

/-- The bytes on MISOn after the status of an ignored transfer of `n` bytes: free values (log entry 7). -/
def freeBytes (draws n : Nat) : List Byte := (List.range n).map fun i => Config.freeByte (draws + i)

/-- SELn rises at the end of an ignored transfer of the bytes `mosi` (R152). A transfer on a READY port whose first byte is one
of the two codes (R179), or already recognised as a FETCH, is not ignored (log entry 2). -/
def ignoredRises (s : State) (p : Client) (mosi : List Byte) : State :=
  let t := currentTransfer s p
  if t.ignored then putPort s p (closed (s.ports.get p) t mosi.length [])
  else if t.chosen ≠ none ∨ transferKind mosi ≠ .ignored then s
  else
    { putPort s p (closed (s.ports.get p) t mosi.length (freeBytes s.freeDraws mosi.length)) with
      freeDraws := s.freeDraws + mosi.length }

/-- IGNORED_TRANSFER (R152). -/
def execIgnoredTransfer (p : Client) (edge : SelEdge) (s : State) : Outcome State Fault Refusal :=
  match edge with
  | .falls => .next (selFalls s p)
  | .rises mosi => .next (ignoredRises s p mosi)

/-! ### The arbiter -/

/-- The ports in cyclic order, starting with the one after `last` (R161). -/
def cyclicOrder (last : Client) : List Client := [last + 1, last + 2, last + 3, last]

/-- The first port in cyclic order that holds a queued frame (R161). -/
def nextPort (s : State) : Option Client :=
  (cyclicOrder s.lastServed).find? fun p => decide ((s.ports.get p).inbound ≠ [])

/-- The selection of port `p`: its head frame goes into service with the discard mark clear (R161). -/
def selectPort (s : State) (p : Client) : State :=
  match (s.ports.get p).inbound with
  | [] => s
  | body :: rest =>
    { putPort s p { s.ports.get p with inbound := rest } with
      executor := some { port := p, body := body, discard := false }
      lastServed := p }

/-- SELECTION (R161). While a request is in service, or with no frame queued, none is selected (log entry 2). -/
def execSelection (s : State) : Outcome State Fault Refusal :=
  match s.executor, nextPort s with
  | none, some p => .next (selectPort s p)
  | none, none => .next s
  | some _, _ => .next s

/-! ### Port reset -/

/-- The port as an assertion of PRSTn leaves it (R165, steps 1 to 3). -/
def resetPort (q : Port) : Port :=
  { q with
    state := .reset
    assertTaken := true
    inbound := []
    outbound := []
    refused := false
    malformed := false
    transfer := q.transfer.map fun t => { t with ended := true } }

/-- The discard mark set on the request in service, if it is the port's (R165, step 4). -/
def discardService (p : Client) (e : Option Serving) : Option Serving :=
  e.map fun r => if r.port = p then { r with discard := true } else r

/-- The control set without port `p`, which P0 never leaves (R165, step 6; R185). -/
def dropControl (control : Table Bool 4) (p : Client) : Table Bool 4 := if p = 0 then control else control.set p false

/-- The effects of an assertion of PRSTn at the port, the executor, the mask and the control set (R165, steps 1 to 6). -/
def assertPortReset (s : State) (p : Client) : State :=
  refreshAttn
    { s with
      ports := s.ports.set p (resetPort (s.ports.get p))
      executor := discardService p s.executor
      attn := s.attn.set p { s.attn.get p with mask := 0 }
      control := dropControl s.control p } p

/-- PORT_RESET: a detected assertion of PRSTn, with the marking of the client unless it is PURGING already (R165). Detected
changes alternate, so no assertion follows one already taken (log entry 2). -/
def execPortReset (p : Client) (s : State) : Outcome State Fault Refusal :=
  if (s.ports.get p).assertTaken then .next s
  else if s.purging.get p then .next (assertPortReset s p)
  else .next (markClient (assertPortReset s p) p)

/-- PORT_RESET_RELEASE: a detected deassertion of PRSTn returns the port to READY (R166). -/
def execPortResetRelease (p : Client) (s : State) : Outcome State Fault Refusal :=
  if (s.ports.get p).assertTaken then
    .next (putPort s p { s.ports.get p with state := .ready, assertTaken := false })
  else .next s

/-! ### Device reset -/

/-- RESET: every block at its reset values, whatever it held (R11, R40, R57, R117, R134, R150, R168, R195). The queue of
waiting commands, and the count of free values drawn, are the model's own and stand. -/
def execReset (pins : Pins) (s : State) : Outcome State Fault Refusal :=
  .next { State.afterReset pins with freeDraws := s.freeDraws, pending := s.pending }

end Sys2Proof.Machine
end

