-- ==== Sys2Proof/Machine/Records.lean ====
section
/-! DEFINITION. The requests on a record as a whole: CREATE, RETIRE, RELABEL, QUERY, QUERY-SET (01_records_and_handles.md), and
UNKNOWN_REQUEST (R171). -/

namespace Sys2Proof.Machine

open Host (Outcome)

/-- The record a CREATE fills a slot with (R13). -/
def newRecord (owner : Client) (mode : Mode) (period : Nat) (priority : Fin 4) (tag : BitVec 16) (share : Bool) : Rec :=
  { state := .idle, owner := owner, mode := mode, period := period, staged := none, dueTime := none, remaining := none,
    phase := none, outputLevel := none, outputBinding := none, triggerBinding := none, priority := priority, tag := tag,
    share := share, unacknowledged := false, firstFire := none, overrun := 0, lastFire := none, offered := false }

/-- CREATE with arguments in range: QUOTA, TABLE_FULL, and the filling of the slot at the head of the free list (R12, R13). -/
def createRecord (s : State) (r : Serving) (new : Rec) : Answer :=
  if s.quota.get r.port ≤ s.owned.get r.port then .refuse .quota
  else
    match s.freeList with
    | [] => .refuse .tableFull
    | i :: rest =>
      .accept .ok (byte2 (handleAt s i).value)
        (putOwned (putRecord { s with freeList := rest } i new) r.port (s.owned.get r.port + 1))

/-- CREATE: mode, period, priority, tag, share (R12, R173). -/
def createAnswer (s : State) (r : Serving) : Answer :=
  match modeOf (arg1 r.body 2), below 4 (arg1 r.body 6), shareOf (arg1 r.body 9) with
  | some mode, some priority, some share =>
    if arg3 r.body 3 = 0 ∨ periodTooShort mode (arg3 r.body 3) = true then .refuse .badField
    else
      createRecord s r
        (newRecord r.port mode (arg3 r.body 3) priority (BitVec.ofNat 16 (arg2 r.body 7)) share)
  | _, _, _ => .refuse .badField

/-- CREATE (R12, R13). -/
def execCreate (s : State) : Outcome State Fault Refusal := .next (takeRequest s .create createAnswer)

/-- RETIRE: retirement, reporting unacknowledged and overrun as they stood before (R15). -/
def retireAnswer (s : State) (r : Serving) : Answer :=
  withOwned s r.port (argHandle r.body 2) fun x =>
    .accept .ok (yesNo x.unacknowledged ++ byte1 x.overrun) (retireRecord s (argHandle r.body 2).slot x)

/-- RETIRE (R15). -/
def execRetire (s : State) : Outcome State Fault Refusal := .next (takeRequest s .retire retireAnswer)

/-- The effects of a RELABEL: the three fields, the move of an unacknowledged entry whose priority changes, and the owner's
ATTN line (R17, R121). -/
def relabelRecord (s : State) (i : SlotId) (x : Rec) (tag : BitVec 16) (priority : Fin 4) (share : Bool) : State :=
  let written := putRecord s i { x with tag := tag, priority := priority, share := share }
  let moved :=
    if x.unacknowledged = true ∧ priority ≠ x.priority then joinSet (leaveSet written x.owner i) x.owner i else written
  refreshAttn moved x.owner

/-- RELABEL: handle, tag, priority, share (R17). -/
def relabelAnswer (s : State) (r : Serving) : Answer :=
  match below 4 (arg1 r.body 6), shareOf (arg1 r.body 7) with
  | some priority, some share =>
    withOwned s r.port (argHandle r.body 2) fun x =>
      .accept .ok (yesNo x.unacknowledged ++ yesNo (x.unacknowledged && decide (priority ≠ x.priority)))
        (relabelRecord s (argHandle r.body 2).slot x (BitVec.ofNat 16 (arg2 r.body 4)) priority share)
  | _, _ => .refuse .badField

/-- RELABEL (R17). -/
def execRelabel (s : State) : Outcome State Fault Refusal := .next (takeRequest s .relabel relabelAnswer)

/-- QUERY: one record report, and no change (R18). -/
def queryAnswer (s : State) (r : Serving) : Answer :=
  match readRecord s r.port (argHandle r.body 2) with
  | (.ok, report) => .accept .ok report s
  | (code, _) => .refuse code

/-- QUERY (R18). -/
def execQuery (s : State) : Outcome State Fault Refusal := .next (takeRequest s .query queryAnswer)

/-- The entries of a QUERY-SET that fit the response, whose body holds three bytes and the count before them (R177). -/
def setEntries (s : State) (r : Serving) : List (List Byte) :=
  layEntries (Config.responseLimit - 4) ((handlesFrom r.body 3 (arg1 r.body 2)).map (setEntry s r.port))

/-- QUERY-SET: from 1 to 8 handles read in one event (R20). -/
def querySetAnswer (s : State) (r : Serving) : Answer :=
  if arg1 r.body 2 = 0 ∨ Config.listLimit < arg1 r.body 2 then .refuse .badField
  else .accept .ok (byte1 (setEntries s r).length ++ (setEntries s r).flatten) s

/-- QUERY-SET (R20). -/
def execQuerySet (s : State) : Outcome State Fault Refusal := .next (takeRequest s .querySet querySetAnswer)

/-- UNKNOWN_REQUEST: the request in service is of no kind in the catalogue (R171). With no such request in service nothing
changes (log entry 2). -/
def execUnknownRequest (s : State) : Outcome State Fault Refusal :=
  match s.executor with
  | none => .next s
  | some r => if kindOf (bodyByte r.body 0) = none then .next (respond s r (.refuse .unknownRequest)) else .next s

end Sys2Proof.Machine
end

