-- ==== Sys2Proof/Machine/Supervision.lean ====
section
/-! DEFINITION. The supervision requests and the purge scan (11_supervision_and_purge.md). -/

namespace Sys2Proof.Machine

open Host (Outcome)

/-- The payload of a SET-QUOTA (R187). -/
def setQuotaPayload (s t : State) (c : Client) : List Byte :=
  byte1 c.val ++ byte2 (t.quota.get c) ++ byte2 (s.quota.get c) ++ byte2 (t.owned.get c) ++ byte2 (quotaSum t.quota)

/-- SET-QUOTA: client, quota (R174, R187). -/
def setQuotaAnswer (s : State) (r : Serving) : Answer :=
  match below 4 (arg1 r.body 2) with
  | none => .refuse .badField
  | some c =>
    if Config.tableSize < arg2 r.body 3 then .refuse .badField
    else if Config.tableSize < quotaSum (s.quota.set c (arg2 r.body 3)) then .refuse .quotaSum
    else
      let t := { s with quota := s.quota.set c (arg2 r.body 3) }
      .accept .ok (setQuotaPayload s t c) t

/-- SET-QUOTA (R187). -/
def execSetQuota (s : State) : Outcome State Fault Refusal := .next (takeRequest s .setQuota setQuotaAnswer)

/-- GRANT-CONTROL: client (R174, R186). -/
def grantControlAnswer (s : State) (r : Serving) : Answer :=
  match below 4 (arg1 r.body 2) with
  | none => .refuse .badField
  | some c => .accept .ok (controlByte (s.control.set c true)) { s with control := s.control.set c true }

/-- GRANT-CONTROL (R186). -/
def execGrantControl (s : State) : Outcome State Fault Refusal := .next (takeRequest s .grantControl grantControlAnswer)

/-- REVOKE-CONTROL: client, never client 0 (R174, R186). -/
def revokeControlAnswer (s : State) (r : Serving) : Answer :=
  match below 4 (arg1 r.body 2) with
  | none => .refuse .badField
  | some c =>
    if c = 0 then .refuse .badField
    else .accept .ok (controlByte (s.control.set c false)) { s with control := s.control.set c false }

/-- REVOKE-CONTROL (R186). -/
def execRevokeControl (s : State) : Outcome State Fault Refusal := .next (takeRequest s .revokeControl revokeControlAnswer)

/-- PURGE-CLIENT: client (R174, R190). -/
def purgeClientAnswer (s : State) (r : Serving) : Answer :=
  match below 4 (arg1 r.body 2) with
  | none => .refuse .badField
  | some c =>
    if s.purging.get c then .refuse .purging
    else .accept .ok (byte1 c.val ++ byte2 (s.owned.get c) ++ byte1 (offersOf s c).length) (markClient s c)

/-- PURGE-CLIENT (R190). -/
def execPurgeClient (s : State) : Outcome State Fault Refusal := .next (takeRequest s .purgeClient purgeClientAnswer)

/-- The items DEVICE-STATUS gives for one client (R188). -/
def clientStatus (s : State) (c : Client) : List Byte :=
  byte2 (s.quota.get c) ++ byte2 (s.owned.get c) ++ byte1 (purgeCode (s.purging.get c)) ++ yesNo (s.control.get c)

/-- DEVICE-STATUS (R188). -/
def deviceStatusAnswer (s : State) (_r : Serving) : Answer :=
  .accept .ok
    (clientStatus s 0 ++ clientStatus s 1 ++ clientStatus s 2 ++ clientStatus s 3 ++ byte2 s.freeList.length
      ++ byte1 s.offers.length ++ byte1 (tbState s.timeBase).code ++ byte2 s.timeBase.owed ++ yesNo s.timeBase.slipped) s

/-- DEVICE-STATUS (R188). -/
def execDeviceStatus (s : State) : Outcome State Fault Refusal := .next (takeRequest s .deviceStatus deviceStatusAnswer)

/-- The examination of slot `i` for client `c`: a record the client owns is retired (R191). -/
def examineSlot (s : State) (c : Client) (i : SlotId) : State :=
  match recordAt s i with
  | none => s
  | some r => if r.owner = c then retireRecord s i r else s

/-- The cursor moves to the next slot; after slot 2047 the scan of client `c` completes (R191, R193). -/
def moveCursor (s : State) (c : Client) (i : SlotId) : State :=
  if h : i.val + 1 < 2048 then { s with cursor := some ⟨i.val + 1, h⟩ }
  else { s with purging := s.purging.set c false, purgeQueue := s.purgeQueue.tail, cursor := none }

/-- PURGE_STEP: the slot at the cursor is examined for the client at the head of the purge queue, and the cursor moves on. A
scan that waited for the one before it begins at slot 0 (R191, R193). With the queue empty no step is taken (log entry 2). -/
def execPurgeStep (s : State) : Outcome State Fault Refusal :=
  match s.purgeQueue with
  | [] => .next s
  | c :: _ => .next (moveCursor (examineSlot s c (s.cursor.getD 0)) c (s.cursor.getD 0))

end Sys2Proof.Machine
end

