-- ==== Sys2Proof/Machine/TimeControl.lean ====
section
/-! DEFINITION. The time base: the time requests, HOLDIN, and the REFCLK edges (02_table_time.md). -/

namespace Sys2Proof.Machine

open Host (Outcome)

/-- The time-base state as a payload byte. -/
def tbByte (t : TimeBase) : List Byte := byte1 (tbState t).code

/-- READ-TIME (R39). -/
def readTimeAnswer (s : State) (_r : Serving) : Answer :=
  .accept .ok (timeBytes s.tableTime ++ byte2 s.timeBase.owed ++ tbByte s.timeBase ++ yesNo s.timeBase.slipped) s

/-- READ-TIME (R39). -/
def execReadTime (s : State) : Outcome State Fault Refusal := .next (takeRequest s .readTime readTimeAnswer)

/-- The rebase of a slot's due time by `d` (R37). -/
def rebaseSlot (d : Time) (x : Slot) : Slot :=
  { x with record := x.record.map fun r => { r with dueTime := r.dueTime.map fun due => due + d } }

/-- The rebase of every due time and every lapse time by `d` (R37). -/
def rebase (s : State) (d : Time) : State :=
  { s with
    slots := s.slots.map (rebaseSlot d)
    schedule := s.schedule.map fun e => { e with due := e.due + d }
    offers := s.offers.map fun o => { o with lapse := o.lapse + d } }

/-- The effects of a START-TIME (R36). -/
def startTime (s : State) (new : Time) (prescaler : Nat) : State :=
  { rebase s (new - s.tableTime) with
    tableTime := new
    timeBase := { s.timeBase with stopped := false, prescaler := prescaler, phase := 0, slipped := false } }

/-- START-TIME: table time, prescaler (R36). -/
def startTimeAnswer (s : State) (r : Serving) : Answer :=
  if arg3 r.body 6 = 0 ∨ Config.maxPrescaler < arg3 r.body 6 then .refuse .badField
  else if tbState s.timeBase ≠ .stopped then .refuse .wrongState
  else
    let t := startTime s (BitVec.ofNat 32 (arg4 r.body 2)) (arg3 r.body 6)
    .accept .ok (tbByte t.timeBase) t

/-- START-TIME (R36). -/
def execStartTime (s : State) : Outcome State Fault Refusal := .next (takeRequest s .startTime startTimeAnswer)

/-- The effects of a STOP-TIME (R38). -/
def stopTime (t : TimeBase) : TimeBase := { t with stopped := true, owed := 0, slipped := false }

/-- STOP-TIME (R38). -/
def stopTimeAnswer (s : State) (_r : Serving) : Answer :=
  if tbState s.timeBase = .stopped then .refuse .wrongState
  else .accept .ok (tbByte (stopTime s.timeBase)) { s with timeBase := stopTime s.timeBase }

/-- STOP-TIME (R38). -/
def execStopTime (s : State) : Outcome State Fault Refusal := .next (takeRequest s .stopTime stopTimeAnswer)

/-- HOLD-TIME (R31). -/
def holdTimeAnswer (s : State) (_r : Serving) : Answer :=
  let t := { s.timeBase with requestHold := true }
  .accept .ok (tbByte t) { s with timeBase := t }

/-- HOLD-TIME (R31). -/
def execHoldTime (s : State) : Outcome State Fault Refusal := .next (takeRequest s .holdTime holdTimeAnswer)

/-- RELEASE-TIME (R31), which is a release where it clears the last hold source (R33). -/
def releaseTimeAnswer (s : State) (_r : Serving) : Answer :=
  let t := release s.timeBase { s.timeBase with requestHold := false }
  .accept .ok (tbByte t) { s with timeBase := t }

/-- RELEASE-TIME (R31). -/
def execReleaseTime (s : State) : Outcome State Fault Refusal := .next (takeRequest s .releaseTime releaseTimeAnswer)

/-- SET-RELEASE-POLICY: policy (R34). -/
def setReleasePolicyAnswer (s : State) (r : Serving) : Answer :=
  match policyOf (arg1 r.body 2) with
  | none => .refuse .badField
  | some policy =>
    .accept .ok (byte1 policy.code ++ byte1 s.timeBase.policy.code)
      { s with timeBase := { s.timeBase with policy := policy } }

/-- SET-RELEASE-POLICY (R34). -/
def execSetReleasePolicy (s : State) : Outcome State Fault Refusal :=
  .next (takeRequest s .setReleasePolicy setReleasePolicyAnswer)

/-- HOLDIN_ASSERTS: the line hold is set, in every time-base state (R32). -/
def execHoldinAsserts (s : State) : Outcome State Fault Refusal :=
  .next { s with timeBase := { s.timeBase with lineHold := true } }

/-- HOLDIN_DEASSERTS: the line hold is cleared, which may be a release (R32, R33). -/
def execHoldinDeasserts (s : State) : Outcome State Fault Refusal :=
  .next { s with timeBase := release s.timeBase { s.timeBase with lineHold := false } }

/-- REFCLK_PHASE_EDGE: an edge in RUNNING or HELD with the phase below prescaler − 1 raises the phase (R25). In STOPPED edges
are ignored; at another phase the edge is an OWED_ADVANCE (log entry 2). -/
def execRefclkPhaseEdge (s : State) : Outcome State Fault Refusal :=
  if tbState s.timeBase ≠ .stopped ∧ s.timeBase.phase + 1 < s.timeBase.prescaler then
    .next { s with timeBase := { s.timeBase with phase := s.timeBase.phase + 1 } }
  else .next s

/-- One owed advance more, or one lost at 65,535 (R26). -/
def countAdvance (t : TimeBase) : TimeBase :=
  if t.owed < Config.maxOwed then { t with phase := 0, owed := t.owed + 1 } else { t with phase := 0, slipped := true }

/-- OWED_ADVANCE: an edge in RUNNING or HELD at phase prescaler − 1 returns the phase to 0 and adds an owed advance (R25,
R26). -/
def execOwedAdvance (s : State) : Outcome State Fault Refusal :=
  if tbState s.timeBase ≠ .stopped ∧ s.timeBase.phase + 1 = s.timeBase.prescaler then
    .next { s with timeBase := countAdvance s.timeBase }
  else .next s

end Sys2Proof.Machine
end

