-- ==== Sys2Proof/Machine/Timing.lean ====
section
/-! DEFINITION. ARM, DISARM and REVISE (R63, R65, R87). -/

namespace Sys2Proof.Machine

open Host (Outcome)

/-- The gate an ARM samples: the line's activeness, or active where the record has no trigger binding (R61, R106). -/
def gateActive (s : State) (r : Rec) : Bool :=
  match r.triggerBinding with
  | none => true
  | some k => (s.trg.get k).active

/-- The due time and ticks ahead of a record, and its remaining count, as ARM and REVISE report them. -/
def dueAndRemaining (now : Time) (due : Option Time) (remaining : Option Nat) : List Byte :=
  optBytes (timeAndTicks now) due ++ optBytes byte3 remaining

/-- The payload of an ARM: presence, state entered, due time with ticks ahead, remaining (R63, R176). -/
def armPayload (now : Time) (x : Rec) : List Byte :=
  presence [x.dueTime.isSome, x.remaining.isSome] ++ byte1 x.state.code ++ dueAndRemaining now x.dueTime x.remaining

/-- The effect of an ARM that passes R63: the staged period is applied first. -/
def armEffect (s : State) (x : Rec) : Effect := armRecord s.tableTime (gateActive s x) (takeStaged x)

/-- ARM (R63). -/
def armAnswer (s : State) (r : Serving) : Answer :=
  withOwned s r.port (argHandle r.body 2) fun x =>
    if x.state ≠ .idle ∧ x.state ≠ .fired then .refuse .wrongState
    else if x.mode = .delayed ∧ x.triggerBinding = none then .refuse .noTrigger
    else
      .accept .ok (armPayload s.tableTime (armEffect s x).record)
        (applyEffect s (argHandle r.body 2).slot (armEffect s x))

/-- ARM (R63). -/
def execArm (s : State) : Outcome State Fault Refusal := .next (takeRequest s .arm armAnswer)

/-- DISARM (R65). -/
def disarmAnswer (s : State) (r : Serving) : Answer :=
  withOwned s r.port (argHandle r.body 2) fun x =>
    if x.state = .idle then .refuse .wrongState
    else
      .accept (if x.state = .fired then .firedBefore else .ok) (byte1 x.state.code)
        (applyEffect s (argHandle r.body 2).slot (disarmRecord x))

/-- DISARM (R65). -/
def execDisarm (s : State) : Outcome State Fault Refusal := .next (takeRequest s .disarm disarmAnswer)

/-- The due time a REVISE reports: that of a SINGLE record replaced while ARMED (R97). -/
def revisedDue (x : Rec) : Option Time := if x.mode = .single then x.dueTime else none

/-- The payload of a REVISE of record `x` that leaves it as `y` (R97, R176). -/
def revisePayload (now : Time) (x y : Rec) : List Byte :=
  presence [y.staged.isSome, x.staged.isSome, (revisedDue y).isSome, y.remaining.isSome]
    ++ byte1 (dispositionOf x).code ++ byte3 y.period ++ byte1 y.state.code
    ++ optBytes byte3 y.staged ++ optBytes byte3 x.staged ++ dueAndRemaining now (revisedDue y) y.remaining

/-- A new period of 1 for a live CYCLIC or SQUARE record, whoever owns it (R87, step 2). -/
def reviseTooShort (s : State) (h : Handle) (p : Nat) : Bool :=
  match liveRecord s h with
  | none => false
  | some x => periodTooShort x.mode p

/-- REVISE: handle, new period (R87). -/
def reviseAnswer (s : State) (r : Serving) : Answer :=
  if arg3 r.body 4 = 0 ∨ reviseTooShort s (argHandle r.body 2) (arg3 r.body 4) = true then .refuse .badField
  else
    withOwned s r.port (argHandle r.body 2) fun x =>
      .accept .ok (revisePayload s.tableTime x (reviseRecord s.tableTime x (arg3 r.body 4)).record)
        (applyEffect s (argHandle r.body 2).slot (reviseRecord s.tableTime x (arg3 r.body 4)))

/-- REVISE (R87). -/
def execRevise (s : State) : Outcome State Fault Refusal := .next (takeRequest s .revise reviseAnswer)

end Sys2Proof.Machine
end

