-- ==== Sys2Proof/Machine/Dispatch.lean ====
section
/-! DEFINITION. The meaning of every command: one direct call per constructor of Instr. -/

namespace Sys2Proof.Machine

open Host (Outcome)

def exec (i : Instr) (s : State) : Host.Outcome State Fault Refusal :=
  match i with
  | .submit p edge => Sys2Proof.Machine.execSubmit p edge s
  | .fetch p edge => Sys2Proof.Machine.execFetch p edge s
  | .ignoredTransfer p edge => Sys2Proof.Machine.execIgnoredTransfer p edge s
  | .selection => Sys2Proof.Machine.execSelection s
  | .unknownRequest => Sys2Proof.Machine.execUnknownRequest s
  | .create => Sys2Proof.Machine.execCreate s
  | .retire => Sys2Proof.Machine.execRetire s
  | .arm => Sys2Proof.Machine.execArm s
  | .disarm => Sys2Proof.Machine.execDisarm s
  | .revise => Sys2Proof.Machine.execRevise s
  | .relabel => Sys2Proof.Machine.execRelabel s
  | .query => Sys2Proof.Machine.execQuery s
  | .querySet => Sys2Proof.Machine.execQuerySet s
  | .bindOutput => Sys2Proof.Machine.execBindOutput s
  | .bindTrigger => Sys2Proof.Machine.execBindTrigger s
  | .unbind => Sys2Proof.Machine.execUnbind s
  | .collect => Sys2Proof.Machine.execCollect s
  | .acknowledge => Sys2Proof.Machine.execAcknowledge s
  | .setMask => Sys2Proof.Machine.execSetMask s
  | .offer => Sys2Proof.Machine.execOffer s
  | .accept => Sys2Proof.Machine.execAccept s
  | .decline => Sys2Proof.Machine.execDecline s
  | .withdraw => Sys2Proof.Machine.execWithdraw s
  | .listOffers => Sys2Proof.Machine.execListOffers s
  | .readTime => Sys2Proof.Machine.execReadTime s
  | .startTime => Sys2Proof.Machine.execStartTime s
  | .stopTime => Sys2Proof.Machine.execStopTime s
  | .holdTime => Sys2Proof.Machine.execHoldTime s
  | .releaseTime => Sys2Proof.Machine.execReleaseTime s
  | .setReleasePolicy => Sys2Proof.Machine.execSetReleasePolicy s
  | .configureTrigger => Sys2Proof.Machine.execConfigureTrigger s
  | .configureOutput => Sys2Proof.Machine.execConfigureOutput s
  | .setQuota => Sys2Proof.Machine.execSetQuota s
  | .grantControl => Sys2Proof.Machine.execGrantControl s
  | .revokeControl => Sys2Proof.Machine.execRevokeControl s
  | .purgeClient => Sys2Proof.Machine.execPurgeClient s
  | .deviceStatus => Sys2Proof.Machine.execDeviceStatus s
  | .purgeStep => Sys2Proof.Machine.execPurgeStep s
  | .portReset p => Sys2Proof.Machine.execPortReset p s
  | .portResetRelease p => Sys2Proof.Machine.execPortResetRelease p s
  | .holdinAsserts => Sys2Proof.Machine.execHoldinAsserts s
  | .holdinDeasserts => Sys2Proof.Machine.execHoldinDeasserts s
  | .triggerEvent k level => Sys2Proof.Machine.execTriggerEvent k level s
  | .owedAdvance => Sys2Proof.Machine.execOwedAdvance s
  | .advance => Sys2Proof.Machine.execAdvance s
  | .expiry => Sys2Proof.Machine.execExpiry s
  | .lapse slot => Sys2Proof.Machine.execLapse slot s
  | .reset pins => Sys2Proof.Machine.execReset pins s
  | .refclkPhaseEdge => Sys2Proof.Machine.execRefclkPhaseEdge s
  | .fetchCodeRecognised p => Sys2Proof.Machine.execFetchCodeRecognised p s

end Sys2Proof.Machine
end

