-- ==== Sys2Proof/Safety.lean ====
section
/-! DEFINITION. What holds of the part between any two commands: the laws the spec's prose states of each block, as
predicates on a state. Claims are stated in these terms. -/

namespace Sys2Proof.Safety

open Sys2Proof.Machine

/-! ### Time base -/

/-- The ranges of R25 and R26, and the laws of STOPPED: nothing is owed (R26) and SLIPPED is clear (R27, R38). -/
def TimeBaseLaw (t : TimeBase) : Prop :=
  1 ≤ t.prescaler ∧ t.prescaler ≤ Config.maxPrescaler ∧ t.phase < t.prescaler ∧ t.owed ≤ Config.maxOwed ∧
    (t.stopped = true → t.owed = 0 ∧ t.slipped = false)

/-! ### Ports -/

/-- A request body an accepted frame can have (R154, R155). -/
def RequestBody (body : List Byte) : Prop := 3 ≤ body.length ∧ body.length ≤ 24

/-- The laws of one port: the queue limits (R156, R157), the bodies queued, at most one link flag set (R155), and what RESET
leaves of a port while it lasts (R165, R166). -/
def PortLaw (s : State) (p : Client) : Prop :=
  (s.ports.get p).inbound.length ≤ Config.inboundLimit ∧
  reservation s p ≤ Config.reservationLimit ∧
  (∀ body ∈ (s.ports.get p).inbound, RequestBody body) ∧
  ((s.ports.get p).refused && (s.ports.get p).malformed) = false ∧
  ((s.ports.get p).assertTaken = true → (s.ports.get p).state = .reset) ∧
  ((s.ports.get p).state = .reset →
    (s.ports.get p).inbound = [] ∧ (s.ports.get p).outbound = [] ∧ (s.ports.get p).refused = false ∧
      (s.ports.get p).malformed = false ∧ serviceMark s p ≠ some false ∧
      ∀ t, (s.ports.get p).transfer = some t → t.ignored = true)

/-- The laws of the four ports and of the request in service. -/
def PortsLaw (s : State) : Prop :=
  (∀ p, PortLaw s p) ∧ ∀ r, s.executor = some r → RequestBody r.body

/-- Every response waiting has a body of 4 to 124 bytes (R158, R182). -/
def ResponsesLaw (s : State) : Prop :=
  ∀ p, ∀ body ∈ (s.ports.get p).outbound, 4 ≤ body.length ∧ body.length ≤ Config.responseLimit

/-! ### Supervision -/

/-- P0 is in the control set (R185), the quotas promise no more slots than exist (R187), the purge queue holds exactly the
PURGING clients, once each, and a cursor is present only while one is being scanned (R189). -/
def SupervisionLaw (s : State) : Prop :=
  s.control.get 0 = true ∧ quotaSum s.quota ≤ Config.tableSize ∧ s.purgeQueue.Nodup ∧
    (∀ c, c ∈ s.purgeQueue ↔ s.purging.get c = true) ∧ (s.cursor.isSome = true → s.purgeQueue ≠ [])

/-! ### Record table -/

/-- The free list holds FREE slots, each once (R9). -/
def FreeSlotsLaw (s : State) : Prop := s.freeList.Nodup ∧ ∀ i ∈ s.freeList, recordAt s i = none

/-- How many live records client `c` owns. -/
def liveCount (s : State) (c : Client) : Nat :=
  (List.finRange 2048).countP fun i => decide ((recordAt s i).map Rec.owner = some c)

/-- The free list holds every FREE slot exactly once and no other (R9), and each owned count is the number of live records the
client owns (R10). -/
def AccountLaw (s : State) : Prop :=
  s.freeList.Nodup ∧ (∀ i, i ∈ s.freeList ↔ recordAt s i = none) ∧ ∀ c, s.owned.get c = liveCount s c

/-- The range of a period in a record of a mode (Table 1-1). -/
def PeriodInRange (mode : Mode) (p : Nat) : Prop := 1 ≤ p ∧ p ≤ Config.maxTicks ∧ periodTooShort mode p = false

/-- The states a mode can take (Table 4-1). -/
def modeTakes : Mode → RecState → Bool
  | .single, .waiting => false
  | .cyclic, .waiting => false
  | .cyclic, .fired => false
  | .square, .waiting => false
  | .square, .fired => false
  | .delayed, .suspended => false
  | .delayed, .fired => false
  | .watch, .suspended => false
  | .watch, .waiting => false
  | _, _ => true

/-- The modes and states in which a staged period may be present (R90). -/
def mayStage : Mode → RecState → Bool
  | .cyclic, .armed => true
  | .cyclic, .suspended => true
  | .square, .armed => true
  | .square, .suspended => true
  | .delayed, .waiting => true
  | .delayed, .armed => true
  | .watch, .armed => true
  | .watch, .fired => true
  | _, _ => false

/-- The fields a record carries: those of Table 1-1, each present under the condition of its Presence column and in its range
(R2, R3, R58, R90, R120). -/
def RecordLaw (r : Rec) : Prop :=
  modeTakes r.mode r.state = true ∧
  PeriodInRange r.mode r.period ∧
  (∀ p, r.staged = some p → PeriodInRange r.mode p ∧ mayStage r.mode r.state = true) ∧
  (r.dueTime.isSome = true ↔ r.state = .armed) ∧
  (r.remaining.isSome = true ↔ r.state = .suspended ∧ r.mode = .single) ∧
  (∀ n, r.remaining = some n → 1 ≤ n ∧ n ≤ Config.maxTicks) ∧
  (r.phase.isSome = true ↔ r.state = .armed ∧ r.mode = .square) ∧
  (r.outputLevel.isSome = r.outputBinding.isSome) ∧
  (r.mode = .delayed → r.state ≠ .idle → r.triggerBinding.isSome = true) ∧
  (r.firstFire.isSome = r.unacknowledged) ∧
  r.overrun ≤ Config.maxOverrun ∧
  (r.unacknowledged = false → r.overrun = 0) ∧
  (r.unacknowledged = true → r.lastFire.isSome = true)

/-- The output level a bound record holds, by mode, state and phase (Table 4-2); a CYCLIC record that is ARMED may hold
either. -/
def tableLevel (r : Rec) : Option OutLevel :=
  match r.mode, r.state with
  | .cyclic, .armed => none
  | .single, .fired => some .active
  | .watch, .fired => some .active
  | .delayed, .armed => some .active
  | .square, .armed => if r.phase = some .high then some .active else some .inactive
  | _, _ => some .inactive

/-- Every bound record holds the output level of Table 4-2. -/
def LevelLaw (r : Rec) : Prop := ∀ l, tableLevel r = some l → r.outputBinding.isSome = true → r.outputLevel = some l

/-! ### The schedule -/

/-- The schedule holds exactly the ARMED records, once each, with their due times (R41), in the order of R42, each 1 to
16,777,215 ticks ahead of table time (R43). -/
def ScheduleLaw (s : State) : Prop :=
  (s.schedule.map Entry.slot).Nodup ∧
  (∀ e ∈ s.schedule, (recordAt s e.slot).bind Rec.dueTime = some e.due) ∧
  (∀ i r due, recordAt s i = some r → r.dueTime = some due → Entry.mk i due ∈ s.schedule) ∧
  (∀ e ∈ s.schedule, 1 ≤ ahead s.tableTime e.due ∧ ahead s.tableTime e.due ≤ Config.maxTicks) ∧
  s.schedule.Pairwise fun a b => ahead s.tableTime a.due ≤ ahead s.tableTime b.due

/-- The records and the schedule, with the free list a CREATE takes its slot from. -/
def TimingLaw (s : State) : Prop :=
  FreeSlotsLaw s ∧ (∀ i r, recordAt s i = some r → RecordLaw r ∧ LevelLaw r) ∧ ScheduleLaw s

/-! ### Lines -/

/-- Each EVT line is bound to a record exactly when that record's output binding names it, and drives the level of Table 6-1
(R109); each TRG line's listener list holds exactly the records whose trigger binding names it, once each (R103). -/
def LineLaw (s : State) : Prop :=
  FreeSlotsLaw s ∧
  (∀ k i, (s.evt.get k).bound = some i ↔ (recordAt s i).bind Rec.outputBinding = some k) ∧
  (∀ k, (s.evt.get k).driven = drivenLevel (s.evt.get k).idle (boundLevel s (s.evt.get k))) ∧
  (∀ k, (s.trg.get k).listeners.Nodup) ∧
  (∀ k i, i ∈ (s.trg.get k).listeners ↔ (recordAt s i).bind Rec.triggerBinding = some k)

/-! ### Offers -/

/-- At most one offer for any record, and an offer for exactly the records whose offer field is present (R4, R136). -/
def OfferTableLaw (s : State) : Prop :=
  (s.offers.map Offer.record).Nodup ∧
  ∀ i, (recordAt s i).map Rec.offered = some true ↔ i ∈ s.offers.map Offer.record

/-- The laws of R136: at most 32 offers, one for any record, each of a live record its giver owns, addressed to another client,
neither client PURGING, and present exactly while the record's offer field is; and each lapse time 1 to 16,777,215 ticks
ahead (R51, R144). -/
def OfferLaw (s : State) : Prop :=
  FreeSlotsLaw s ∧
  OfferTableLaw s ∧
  s.offers.length ≤ Config.offerLimit ∧
  ∀ o ∈ s.offers, (recordAt s o.record).map Rec.owner = some o.giver ∧ o.receiver ≠ o.giver ∧
    s.purging.get o.giver = false ∧ s.purging.get o.receiver = false ∧
    1 ≤ ahead s.tableTime o.lapse ∧ ahead s.tableTime o.lapse ≤ Config.maxTicks

/-! ### Attention -/

/-- A client's attention set holds exactly its unacknowledged records, once each, highest priority first (R119); its mask level
is 0..4, and its ATTN line is as R124 gives. -/
def AttentionLaw (s : State) : Prop :=
  FreeSlotsLaw s ∧
  OfferTableLaw s ∧
  (∀ c, (s.attn.get c).set.Nodup) ∧
  (∀ c i, i ∈ (s.attn.get c).set ↔ ∃ r, recordAt s i = some r ∧ r.owner = c ∧ r.unacknowledged = true) ∧
  (∀ c, (s.attn.get c).set.Pairwise fun i j => priorityAt s j ≤ priorityAt s i) ∧
  (∀ c, (s.attn.get c).mask ≤ 4) ∧
  ∀ c, (s.attn.get c).line = attnAsserts s c

/-! ### Runs -/

/-- A safe state: every law holds. -/
def Safe (s : State) : Prop :=
  TimeBaseLaw s.timeBase ∧ PortsLaw s ∧ ResponsesLaw s ∧ SupervisionLaw s ∧ AccountLaw s ∧ TimingLaw s ∧ LineLaw s ∧
    OfferLaw s ∧ AttentionLaw s

/-- A law is kept by every step that answers a next state. -/
def KeptByStep (law : State → Prop) : Prop := ∀ s t, law s → step s = .next t → law t

end Sys2Proof.Safety
end

