-- ==== Sys2Proof/Certificates/Slice0/Obligations.lean ====
section
/-! DEFINITION. The statements about the FD4820. The vocabulary they share comes first, in the spec's terms: a request in
service, its answer, and what an event leaves of a record, its line and its place in the schedule. -/

namespace Sys2Proof.Claims

open Sys2Proof.Machine

/-! ### Requests -/

/-- The command that takes a request of each kind. -/
def instrOf : Kind → Instr
  | .create => .create
  | .retire => .retire
  | .arm => .arm
  | .disarm => .disarm
  | .revise => .revise
  | .relabel => .relabel
  | .query => .query
  | .querySet => .querySet
  | .bindOutput => .bindOutput
  | .bindTrigger => .bindTrigger
  | .unbind => .unbind
  | .collect => .collect
  | .acknowledge => .acknowledge
  | .setMask => .setMask
  | .offer => .offer
  | .accept => .accept
  | .decline => .decline
  | .withdraw => .withdraw
  | .listOffers => .listOffers
  | .readTime => .readTime
  | .startTime => .startTime
  | .stopTime => .stopTime
  | .holdTime => .holdTime
  | .releaseTime => .releaseTime
  | .setReleasePolicy => .setReleasePolicy
  | .configureTrigger => .configureTrigger
  | .configureOutput => .configureOutput
  | .setQuota => .setQuota
  | .grantControl => .grantControl
  | .revokeControl => .revokeControl
  | .purgeClient => .purgeClient
  | .deviceStatus => .deviceStatus

/-- The bytes of each kind's arguments: Table 10-1 at the widths of R181. QUERY-SET's depend on its count byte, the third of
the body. -/
def argumentBytes (body : List Byte) : Kind → Nat
  | .create => 1 + 3 + 1 + 2 + 1
  | .relabel => 2 + 2 + 1 + 1
  | .revise => 2 + 3
  | .querySet => 1 + 2 * (body.getD 2 0).toNat
  | .bindOutput | .bindTrigger | .unbind => 2 + 1
  | .offer => 2 + 1 + 3
  | .startTime => 4 + 3
  | .configureTrigger | .configureOutput => 1 + 1
  | .setQuota => 1 + 2
  | .retire | .arm | .disarm | .query | .acknowledge | .accept | .decline | .withdraw => 2
  | .collect | .setMask | .listOffers | .readTime | .stopTime | .holdTime | .releaseTime | .setReleasePolicy
  | .grantControl | .revokeControl | .purgeClient | .deviceStatus => 1

/-- Steps 3 and 4 of the check order let the request pass (R172). -/
def Passes (s : State) (p : Client) (k : Kind) : Prop :=
  (k.isControl = true → s.control.get p = true) ∧ (k.purgeExempt = false → s.purging.get p = false)

/-- The request in service is `r`, of kind `k` with the argument bytes `args`, and it passes steps 3 and 4. -/
def InService (s : State) (r : Serving) (k : Kind) (args : List Byte) : Prop :=
  s.executor = some r ∧ (∃ seq, r.body = k.code :: seq :: args) ∧ Passes s r.port k

/-- State `t` once the service of `r` has ended: the response (kind echo, sequence echo, result code, payload) stands at the
tail of its port's outbound queue, unless the discard mark is set (R163, R175). -/
def served (t : State) (r : Serving) (code : ResultCode) (payload : List Byte) : State :=
  { t with
    executor := none
    ports :=
      if r.discard = true then t.ports
      else
        t.ports.set r.port
          { t.ports.get r.port with
            outbound := (t.ports.get r.port).outbound ++ [r.body.take 2 ++ code.byte :: payload] } }

/-- The command takes the request `r`, answers it with `code` and `payload`, and leaves the part as `t` but for the end of the
service. -/
def Answers (c : Instr) (s : State) (r : Serving) (code : ResultCode) (payload : List Byte) (t : State) : Prop :=
  exec c s = .next (served t r code payload)

/-- The request is refused: one zero byte of payload, and no other change of state (R170, R175). -/
def Refuses (c : Instr) (s : State) (r : Serving) (code : ResultCode) : Prop := Answers c s r code [0] s

/-- The handle is live and names the record `x` (R6). -/
def Names (s : State) (h : Handle) (x : Rec) : Prop :=
  s.slots.get h.slot = { generation := h.generation, record := some x }

/-- A handle on the wire (R180). -/
def handleBytes (h : Handle) : List Byte := byte2 h.value

/-- Steps 6 and 7 for a request only the owner may make: STALE, and then NOT_OWNER (R6, R8). -/
def OwnerOnly (c : Instr) (s : State) (r : Serving) (h : Handle) : Prop :=
  ((∀ x, ¬ Names s h x) → Refuses c s r .stale) ∧ ∀ x, Names s h x → x.owner ≠ r.port → Refuses c s r .notOwner

/-- Arguments of the length the kind requires, with one of them out of its range (R173, R174). A handle, a tag and a table time
are never out of range, and the kinds whose arguments are only those, or a pad byte, have no such arguments. -/
def OutOfRange (s : State) (p : Client) (k : Kind) (args : List Byte) : Prop :=
  match k with
  | .create =>
    ∃ mode period priority tag share, mode < 256 ∧ period ≤ 16777215 ∧ priority < 256 ∧ tag < 65536 ∧ share < 256 ∧
      args = byte1 mode ++ byte3 period ++ byte1 priority ++ byte2 tag ++ byte1 share ∧
      (4 < mode ∨ period = 0 ∨ (period = 1 ∧ (mode = Mode.cyclic.code ∨ mode = Mode.square.code)) ∨ 3 < priority ∨
        1 < share)
  | .revise =>
    ∃ h n, n ≤ 16777215 ∧ args = handleBytes h ++ byte3 n ∧
      (n = 0 ∨ (n = 1 ∧ ∃ x, Names s h x ∧ (x.mode = .cyclic ∨ x.mode = .square)))
  | .relabel =>
    ∃ h tag priority share, tag < 65536 ∧ priority < 256 ∧ share < 256 ∧
      args = handleBytes h ++ byte2 tag ++ byte1 priority ++ byte1 share ∧ (3 < priority ∨ 1 < share)
  | .querySet => ∃ n rest, n < 256 ∧ args = byte1 n ++ rest ∧ rest.length = 2 * n ∧ (n = 0 ∨ 8 < n)
  | .bindOutput | .bindTrigger => ∃ h line, line < 256 ∧ args = handleBytes h ++ byte1 line ∧ 15 < line
  | .unbind => ∃ h kind, kind < 256 ∧ args = handleBytes h ++ byte1 kind ∧ 1 < kind
  | .collect => ∃ n, n < 256 ∧ args = byte1 n ∧ (n = 0 ∨ 8 < n)
  | .setMask => ∃ n, n < 256 ∧ args = byte1 n ∧ 4 < n
  | .offer =>
    ∃ h client n, client < 256 ∧ n ≤ 16777215 ∧ args = handleBytes h ++ byte1 client ++ byte3 n ∧
      (3 < client ∨ client = p.val ∨ n = 0)
  | .startTime =>
    ∃ (time : Time) (n : Nat), n ≤ 16777215 ∧ args = timeBytes time ++ byte3 n ∧ (n = 0 ∨ 65536 < n)
  | .setReleasePolicy => ∃ n, n < 256 ∧ args = byte1 n ∧ 1 < n
  | .configureTrigger | .configureOutput =>
    ∃ line polarity, line < 256 ∧ polarity < 256 ∧ args = byte1 line ++ byte1 polarity ∧ (15 < line ∨ 1 < polarity)
  | .setQuota =>
    ∃ client n, client < 256 ∧ n < 65536 ∧ args = byte1 client ++ byte2 n ∧ (3 < client ∨ 2048 < n)
  | .grantControl | .purgeClient => ∃ n, n < 256 ∧ args = byte1 n ∧ 3 < n
  | .revokeControl => ∃ n, n < 256 ∧ args = byte1 n ∧ (3 < n ∨ n = 0)
  | .retire | .arm | .disarm | .query | .acknowledge | .accept | .decline | .withdraw | .listOffers | .readTime
  | .stopTime | .holdTime | .releaseTime | .deviceStatus => False

/-! ### Records, their lines and the schedule -/

/-- The output level a mode rule writes: it is held only while the record has an output binding (R59). -/
def heldLevel (x : Rec) (l : OutLevel) : Option OutLevel := x.outputBinding.map fun _ => l

/-- The period in force once a staged period, if present, has been applied (R63, R90). -/
def periodOf (x : Rec) : Nat := x.staged.getD x.period

/-- The record with its staged period, if present, applied and removed. -/
def applied (x : Rec) : Rec := { x with period := periodOf x, staged := none }

/-- The line of a bound record holds that record (R4, R109). -/
def OnItsLine (s : State) (i : SlotId) (x : Rec) : Prop :=
  ∀ k, x.outputBinding = some k → (s.evt.get k).bound = some i

/-- The EVT lines with the line of record `y` driven by Table 6-1 (R110). -/
def follows (s : State) (y : Rec) : Table EvtLine 16 :=
  match y.outputBinding with
  | none => s.evt
  | some k => s.evt.set k { s.evt.get k with driven := drivenLevel (s.evt.get k).idle y.outputLevel }

/-- The slots with record `y` in slot `i`, at the generation the slot has. -/
def slotsWith (s : State) (i : SlotId) (y : Rec) : Table Slot 2048 :=
  s.slots.set i { generation := (s.slots.get i).generation, record := some y }

/-- The state with `y` in slot `i`, the line of `y` driven to match, and the schedule `l`. Everything else stands. -/
def changed (s : State) (i : SlotId) (y : Rec) (l : List Entry) : State :=
  { s with slots := slotsWith s i y, evt := follows s y, schedule := l }

/-- The schedule without the record in slot `i`; the others keep their order (R45). -/
def unscheduled (s : State) (i : SlotId) : List Entry := s.schedule.filter fun e => decide (e.slot ≠ i)

/-- The schedule with the record in slot `i` placed at `due`: after the entries that lie as near as it or nearer, and before
the first that lies further ahead (R44, R46). -/
def scheduled (s : State) (i : SlotId) (due : Time) : List Entry :=
  let noFurther := fun e : Entry => decide (ahead s.tableTime e.due ≤ ahead s.tableTime due)
  (unscheduled s i).takeWhile noFurther ++ { slot := i, due := due } :: (unscheduled s i).dropWhile noFurther

/-- The EVT lines with the line of a binding, if any, released to its idle polarity (R109, R110). -/
def evtReleased (s : State) : Option Line → Table EvtLine 16
  | none => s.evt
  | some k => s.evt.set k { s.evt.get k with bound := none, driven := (s.evt.get k).idle }

/-- The TRG lines with the record in slot `i` out of the list of the line it is bound to, if any (R103). -/
def trgLeft (s : State) (i : SlotId) : Option Line → Table TrgLine 16
  | none => s.trg
  | some k =>
    s.trg.set k { s.trg.get k with listeners := (s.trg.get k).listeners.filter fun j => decide (j ≠ i) }

/-- The trigger line of the record is inactive: its last detected level is not its active polarity (R61, R100). -/
def GateClosed (s : State) (x : Rec) : Prop :=
  ∃ k, x.triggerBinding = some k ∧ (s.trg.get k).level ≠ (s.trg.get k).polarity

/-! ### Attention and offers -/

/-- A slot placed at the tail of priority group `p` of a set (R119). -/
def grouped (s : State) (p : Nat) (i : SlotId) (l : List SlotId) : List SlotId :=
  l.takeWhile (fun j => decide (p ≤ priorityAt s j)) ++ i :: l.dropWhile (fun j => decide (p ≤ priorityAt s j))

/-- The attention set `l` given to client `c`; its mask and its line stand. -/
def withSet (s : State) (c : Client) (l : List SlotId) : Table Attn 4 :=
  s.attn.set c { s.attn.get c with set := l }

/-- The state with client `c`'s ATTN line as R124 gives it. -/
def relined (s : State) (c : Client) : State :=
  { s with attn := s.attn.set c { s.attn.get c with line := attnAsserts s c } }

/-- The state without the offers of the record `x` in slot `i`, and `x` without its offer field (R4). -/
def offerEnded (s : State) (i : SlotId) (x : Rec) : State :=
  { s with
    slots := slotsWith s i { x with offered := false }
    offers := s.offers.filter fun o => decide (o.record ≠ i) }

/-- The record a firing at `now` leaves (R62, R120). -/
def reported (now : Time) (y : Rec) : Rec :=
  if y.unacknowledged = true then { y with overrun := min 255 (y.overrun + 1), lastFire := some now }
  else { y with unacknowledged := true, firstFire := some now, overrun := 0, lastFire := some now }

/-- What an expiry leaves that makes of the record in slot `i` the record `y`, with the schedule `l`, and is a firing: the
record reports, and joins its owner's set unless it is in it already (R62, R120). -/
def firing (s : State) (i : SlotId) (y : Rec) (l : List Entry) : State :=
  let set := (s.attn.get y.owner).set
  relined
    { changed s i (reported s.tableTime y) l with
      attn := withSet s y.owner (if y.unacknowledged = true then set else grouped s y.priority.val i set) }
    y.owner

/-- The complete bytes on MISOn of a transfer of `n` complete bytes on a READY port: the two status bytes, then `tail`, then
0xFF (R154, R158). -/
def misoBytes (a b : Byte) (tail : List Byte) (n : Nat) : List (Option Byte) :=
  ((a :: b :: tail ++ List.replicate n 0xFF).take n).map some

/-- The bytes clocked in after the SUBMIT code do not make a well-formed frame (R155, case 1). -/
def MalformedFrame : List Byte → Prop
  | [] => True
  | len :: rest =>
    len.toNat < 3 ∨ 24 < len.toNat ∨ rest.length < len.toNat + 1 ∨
      crc (len :: rest.take len.toNat) ≠ rest.getD len.toNat 0

end Sys2Proof.Claims

section Statements

open Sys2Proof Sys2Proof.Machine Sys2Proof.Safety Sys2Proof.Claims

/-! ### The queue of commands, and device reset -/

/-- A step takes the command at the front of the queue, with the queue's rest; on an empty queue the block idles. The queue is
the model's own, and idling is its choice (log entry 3). -/
def Obligations.StepTakesTheFrontCommand : Prop :=
  (∀ c rest (s : State), step { s with pending := c :: rest } = exec c { s with pending := rest }) ∧
    ∀ s : State, step { s with pending := [] } = .next { s with pending := [] }

/-- RESET leaves every block at its values after RESET (R11, R40, R57, R117, R134, R150, R168, R195), whatever the part held.
That the waiting commands stand is the model's choice (log entry 20). -/
def Obligations.DeviceResetRestoresEveryBlock : Prop :=
  ∀ pins s, ∃ t, exec (.reset pins) s = .next t ∧
    (∀ i, t.slots.get i = { generation := 0, record := none }) ∧ t.freeList = List.finRange 2048 ∧
    (∀ c, t.owned.get c = 0) ∧
    t.timeBase =
      { stopped := true, requestHold := false, lineHold := decide (pins.holdin = .high), prescaler := 1, phase := 0, owed := 0,
        slipped := false, policy := .catchUp } ∧
    t.tableTime = 0 ∧ t.schedule = [] ∧
    (∀ k, t.trg.get k = { polarity := .high, level := pins.trg.get k, listeners := [] }) ∧
    (∀ k, t.evt.get k = { idle := .low, bound := none, driven := .low }) ∧
    (∀ c, t.attn.get c = { set := [], mask := 0, line := false }) ∧ t.offers = [] ∧
    (∀ p, ((t.ports.get p).state = if pins.prst.get p = .low then PortState.reset else PortState.ready) ∧
      (t.ports.get p).inbound = [] ∧ (t.ports.get p).outbound = [] ∧ (t.ports.get p).refused = false ∧
      (t.ports.get p).malformed = false) ∧
    t.executor = none ∧ t.lastServed = 3 ∧ (∀ c, t.control.get c = decide (c = 0)) ∧ (∀ c, t.quota.get c = 512) ∧
    (∀ c, t.purging.get c = false) ∧ t.purgeQueue = [] ∧ t.cursor = none ∧ t.pending = s.pending

/-- The values after RESET meet every law, whatever the levels on the inputs when RESET deasserts. -/
def Obligations.ResetStateIsSafe : Prop := ∀ pins, Safe (State.afterReset pins)

/-! ### Laws every step keeps -/

/-- Every step keeps the ranges of the prescaler, the phase and the owed count, and STOPPED owes nothing and has SLIPPED clear
(R25 to R27). -/
def Obligations.TimeBaseLawKept : Prop := KeptByStep fun s => TimeBaseLaw s.timeBase

/-- Every step keeps, at every port, at most 4 frames queued and a reservation count of at most 8, at most one link flag set,
and a port in RESET empty, ignoring its transfers and discarding the response in service (R155 to R157, R165, R166). -/
def Obligations.PortsLawKept : Prop := KeptByStep PortsLaw

/-- Every response waiting on any port has a body of 4 to 124 bytes (R158, R182). -/
def Obligations.ResponsesLawKept : Prop := KeptByStep ResponsesLaw

/-- Every step keeps P0 in the control set, the sum of the quotas within 2048, and the purge queue exactly the PURGING clients,
once each (R185, R187, R189). -/
def Obligations.SupervisionLawKept : Prop := KeptByStep SupervisionLaw

/-- Every step keeps the free list exactly the FREE slots, once each, and each owned count the number of live records of its
client (R9, R10). -/
def Obligations.AccountLawKept : Prop := KeptByStep AccountLaw

/-- Every step keeps the schedule exactly the ARMED records, once each, in order of due time and 1 to 16,777,215 ticks ahead,
and in every record the fields its mode and state call for, with the output level of Table 4-2 (R3, R41 to R43, R58, R90). -/
def Obligations.TimingLawKept : Prop := KeptByStep TimingLaw

/-- Every step keeps the bindings and the lines in agreement: an EVT line is bound to a record exactly when the record's
output binding names it, it drives the level of Table 6-1, and the listener lists hold exactly the records bound to them, once
each (R103, R109). -/
def Obligations.LineLawKept : Prop := KeptByStep LineLaw

/-- Every step keeps the offer table within 32 offers, one for any record, each of a live record its giver owns to another
client, neither PURGING, with its lapse time 1 to 16,777,215 ticks ahead (R136, R144). -/
def Obligations.OfferLawKept : Prop := KeptByStep OfferLaw

/-- Every step keeps each attention set exactly its client's unacknowledged records, once each, highest priority first, and
each ATTN line at the level R124 gives (R119, R124). -/
def Obligations.AttentionLawKept : Prop := KeptByStep AttentionLaw

/-- The slots on the free list and the four owned counts together make 2048 (R9). -/
def Obligations.FreeSlotsAndOwnedCountsSumTo2048 : Prop :=
  ∀ s, AccountLaw s →
    s.freeList.length + s.owned.get 0 + s.owned.get 1 + s.owned.get 2 + s.owned.get 3 = 2048

/-- The line rule in full (R124): ATTNc is driven asserted, which is low, exactly when an entry of c's set has a record of
priority at the mask level or above it, or c has an incoming offer and its mask level is below 4. -/
def Obligations.AttentionLineLevel : Prop :=
  ∀ s c, AttentionLaw s →
    (attnPin s c = .low ↔
      (∃ i ∈ (s.attn.get c).set, ∃ x, recordAt s i = some x ∧ (s.attn.get c).mask ≤ x.priority.val) ∨
        ((∃ o ∈ s.offers, o.receiver = c) ∧ (s.attn.get c).mask < 4)) ∧
    (s.attn.get c).mask ≤ 4 ∧ ((s.attn.get c).mask = 4 → attnPin s c = .high)

/-! ### Rules of the whole part -/

/-- Table time moves only by an advance taken while RUNNING with an advance owed, which adds one tick and lowers the owed
count, by START-TIME from STOPPED, and by RESET (R21, R28). -/
def Obligations.TableTimeMovesOnlyByAdvanceStartAndReset : Prop :=
  ∀ s t c rest, s.pending = c :: rest → step s = .next t →
    t.tableTime = s.tableTime ∨
      (c = .advance ∧ tbState s.timeBase = .running ∧ t.timeBase.owed + 1 = s.timeBase.owed ∧
        t.tableTime = s.tableTime + 1) ∨
      (c = .startTime ∧ s.timeBase.stopped = true) ∨ ∃ pins, c = .reset pins ∧ t.tableTime = 0

/-- A record that stays live keeps its generation and its mode, and changes its owner only by an ACCEPT of an offer of it,
which makes it the receiving client's (R2, R7, R58, R141). -/
def Obligations.OwnerChangesOnlyByAccept : Prop :=
  ∀ c s t i x y, FreeSlotsLaw s → exec c s = .next t → recordAt s i = some x → recordAt t i = some y →
    (t.slots.get i).generation = (s.slots.get i).generation ∧ y.mode = x.mode ∧
      (y.owner = x.owner ∨ (c = .accept ∧ ∃ o ∈ s.offers, o.record = i ∧ y.owner = o.receiver))

/-- A firing is made at expiries and at no other event: no other command sets the unacknowledged flag of a record that stays
live, or moves its fire times, or raises its overrun (R62, R104). -/
def Obligations.FiringsOnlyAtExpiries : Prop :=
  ∀ c s t i x y, FreeSlotsLaw s → exec c s = .next t → c ≠ .advance → c ≠ .expiry → recordAt s i = some x →
    recordAt t i = some y →
    y.lastFire = x.lastFire ∧
      (y.unacknowledged = true → x.unacknowledged = true ∧ y.firstFire = x.firstFire ∧ y.overrun = x.overrun)

/-- Every request of the catalogue that is in service is answered by its command, once: the response, with the kind and the
sequence value echoed, joins the port's outbound queue or is discarded, and the service ends. The request itself touches no
port, and a code of 0x40 or above goes with a single zero byte and no other change of state (R163, R170, R175, R182). -/
def Obligations.EveryRequestIsAnsweredOnce : Prop :=
  ∀ s r (k : Kind), s.executor = some r → RequestBody r.body → r.body.head? = some k.code →
    ∃ t code payload, Answers (instrOf k) s r code payload t ∧ t.ports = s.ports ∧ payload ≠ [] ∧
      (0x40 ≤ code.byte.toNat → t = s ∧ payload = [0])

/-- Steps 1 to 4 of the check order: a kind outside the catalogue, a body length other than the kind's, a control request from a
port outside the control set, and then a request of a PURGING client other than READ-TIME and DEVICE-STATUS, which are taken in
every purge state. A request that passes them is not answered with the codes of steps 2 and 3 (R171, R172). That PURGING answers
also a PURGING client's request that names a record already retired, where R192 says STALE, is the model's choice (log entry
23). -/
def Obligations.GeneralChecksInOrder : Prop :=
  ∀ s r, s.executor = some r → RequestBody r.body →
    ((∀ k : Kind, r.body.head? ≠ some k.code) → Refuses .unknownRequest s r .unknownRequest) ∧
    ∀ k : Kind, r.body.head? = some k.code →
      (r.body.length ≠ 2 + argumentBytes r.body k → Refuses (instrOf k) s r .badLength) ∧
      (r.body.length = 2 + argumentBytes r.body k → k.isControl = true → s.control.get r.port = false →
        Refuses (instrOf k) s r .denied) ∧
      (r.body.length = 2 + argumentBytes r.body k → (k.isControl = true → s.control.get r.port = true) →
        k ≠ .readTime → k ≠ .deviceStatus → s.purging.get r.port = true → Refuses (instrOf k) s r .purging) ∧
      (r.body.length = 2 + argumentBytes r.body k → Passes s r.port k →
        ∃ t code payload, Answers (instrOf k) s r code payload t ∧ code ≠ .badLength ∧ code ≠ .denied ∧
          (k = .readTime ∨ k = .deviceStatus → code = .ok))

/-- Step 5: an argument out of its range answers BAD_FIELD, for every kind that has such an argument (R173, R174). -/
def Obligations.OutOfRangeArgumentsAnswerBadField : Prop :=
  ∀ s r (k : Kind) args, InService s r k args → OutOfRange s r.port k args → Refuses (instrOf k) s r .badField

/-! ### Requests on a record as a whole -/

/-- CREATE with arguments in range (R12, R13): QUOTA before TABLE_FULL, and else the slot at the head of the free list becomes
an IDLE record of the requester, with nothing but what the request gives. -/
def Obligations.CreateFillsTheHeadSlot : Prop :=
  ∀ s r (mode : Mode) (period : Nat) (priority : Fin 4) (tag : BitVec 16) (share : Bool),
    InService s r .create
      (byte1 mode.code ++ byte3 period ++ byte1 priority.val ++ byte2 tag.toNat ++ yesNo share) →
    PeriodInRange mode period →
    (s.quota.get r.port ≤ s.owned.get r.port → Refuses .create s r .quota) ∧
    (s.owned.get r.port < s.quota.get r.port → s.freeList = [] → Refuses .create s r .tableFull) ∧
    ∀ i rest, s.owned.get r.port < s.quota.get r.port → s.freeList = i :: rest →
      Answers .create s r .ok (handleBytes { slot := i, generation := (s.slots.get i).generation })
        { s with
          freeList := rest
          slots :=
            slotsWith s i
              { state := .idle, owner := r.port, mode := mode, period := period, staged := none, dueTime := none,
                remaining := none, phase := none, outputLevel := none, outputBinding := none, triggerBinding := none,
                priority := priority, tag := tag, share := share, unacknowledged := false, firstFire := none, overrun := 0,
                lastFire := none, offered := false }
          owned := s.owned.set r.port (s.owned.get r.port + 1) }

/-- RETIRE (R15): STALE, NOT_OWNER, and else the retirement (R14) from every live state, with the unacknowledged flag and the
overrun reported as they stood before. -/
def Obligations.RetireRetiresAndReports : Prop :=
  ∀ s r h, InService s r .retire (handleBytes h) →
    OwnerOnly .retire s r h ∧
    ∀ x, Names s h x → x.owner = r.port →
      Answers .retire s r .ok (yesNo x.unacknowledged ++ byte1 x.overrun) (retireRecord s h.slot x)

/-- Retirement (R14), by RETIRE or by a purge step, and what it leaves unchanged. -/
def Obligations.RetirementEffects : Prop :=
  ∀ s i x, AttentionLaw s → recordAt s i = some x →
    let t := retireRecord s i x
    t.schedule = (if x.state = .armed then unscheduled s i else s.schedule) ∧
    (∀ k, t.evt.get k =
      if x.outputBinding = some k then { s.evt.get k with bound := none, driven := (s.evt.get k).idle } else s.evt.get k) ∧
    (∀ k, t.trg.get k =
      if x.triggerBinding = some k then
        { s.trg.get k with listeners := (s.trg.get k).listeners.filter fun j => decide (j ≠ i) }
      else s.trg.get k) ∧
    (∀ c, (t.attn.get c).set = (s.attn.get c).set.filter (fun j => decide (j ≠ i)) ∧
      (t.attn.get c).mask = (s.attn.get c).mask ∧ (t.attn.get c).line = attnAsserts t c) ∧
    t.offers = s.offers.filter (fun o => decide (o.record ≠ i)) ∧
    (∀ j, t.slots.get j = if j = i then { generation := (s.slots.get i).generation + 1, record := none } else s.slots.get j) ∧
    t.freeList = s.freeList ++ [i] ∧
    (∀ c, t.owned.get c = if c = x.owner then s.owned.get c - 1 else s.owned.get c) ∧
    t = { s with
          slots := t.slots, freeList := t.freeList, owned := t.owned, schedule := t.schedule, trg := t.trg, evt := t.evt,
          attn := t.attn, offers := t.offers }

/-- RELABEL (R17, R121): the three fields are written, an unacknowledged record whose priority changes moves to the tail of its
new group, and the owner's ATTN line is recomputed. -/
def Obligations.RelabelRewritesAndMoves : Prop :=
  ∀ s r h (tag : BitVec 16) (priority : Fin 4) (share : Bool),
    InService s r .relabel (handleBytes h ++ byte2 tag.toNat ++ byte1 priority.val ++ yesNo share) →
    OwnerOnly .relabel s r h ∧
    ∀ x, Names s h x → x.owner = r.port →
      let moves : Bool := x.unacknowledged && decide (priority ≠ x.priority)
      let set := (s.attn.get r.port).set
      Answers .relabel s r .ok (yesNo x.unacknowledged ++ yesNo moves)
        (relined
          { s with
            slots := slotsWith s h.slot { x with tag := tag, priority := priority, share := share }
            attn :=
              withSet s r.port
                (if moves = true then grouped s priority.val h.slot (set.filter fun j => decide (j ≠ h.slot)) else set) }
          r.port)

/-- QUERY (R18): STALE, NOT_SHARED for another client's record that is not shared, and else the record report, with no change
of state. -/
def Obligations.QueryReportsTheRecord : Prop :=
  ∀ s r h, InService s r .query (handleBytes h) →
    ((∀ x, ¬ Names s h x) → Refuses .query s r .stale) ∧
    ∀ x, Names s h x →
      (x.owner ≠ r.port → x.share = false → Refuses .query s r .notShared) ∧
      (x.owner = r.port ∨ x.share = true →
        (x.offered = false → Answers .query s r .ok (recordReport s.tableTime h x none) s) ∧
        ∀ o ∈ s.offers, o.record = h.slot → OfferTableLaw s →
          Answers .query s r .ok (recordReport s.tableTime h x (some o)) s)

/-- The record report, byte by byte (R183): a bit or nibble that reports an absent field reads 0, and the report is 11 to 34
bytes long. -/
def Obligations.RecordReportLayout : Prop :=
  ∀ now h x (o : Option Offer), RecordLaw x →
    let b := recordReport now h x o
    11 ≤ b.length ∧ b.length ≤ 34 ∧ b.take 2 = handleBytes h ∧
    (b.getD 2 0).extractLsb' 4 4 = BitVec.ofNat 4 x.state.code ∧ (b.getD 2 0).extractLsb' 0 4 = BitVec.ofNat 4 x.mode.code ∧
    (b.getD 3 0).extractLsb' 6 2 = BitVec.ofNat 2 x.owner.val ∧
    (b.getD 3 0).extractLsb' 4 2 = BitVec.ofNat 2 x.priority.val ∧
    (b.getD 3 0).getLsbD 3 = x.share ∧ (b.getD 3 0).getLsbD 2 = x.unacknowledged ∧
    (b.getD 3 0).getLsbD 1 = decide (x.outputLevel = some .active) ∧
    (b.getD 3 0).getLsbD 0 = decide (x.phase = some .high) ∧
    (b.getD 4 0).getLsbD 0 = x.staged.isSome ∧ (b.getD 4 0).getLsbD 1 = x.outputBinding.isSome ∧
    (b.getD 4 0).getLsbD 2 = x.triggerBinding.isSome ∧ (b.getD 4 0).getLsbD 3 = x.lastFire.isSome ∧
    (b.getD 4 0).getLsbD 4 = o.isSome ∧ (b.getD 4 0).extractLsb' 5 3 = 0 ∧
    b.drop 5 =
      byte3 x.period ++ byte2 x.tag.toNat ++ byte1 x.overrun ++
      (if x.staged.isSome = true then byte3 (x.staged.getD 0) else []) ++
      (if x.state = .armed then timeBytes (x.dueTime.getD 0) ++ byte3 (ahead now (x.dueTime.getD 0)) else []) ++
      (if x.state = .suspended ∧ x.mode = .single then byte3 (x.remaining.getD 0) else []) ++
      (if x.outputBinding.isSome = true ∨ x.triggerBinding.isSome = true then
        byte1 ((x.triggerBinding.getD 0).val * 16 + (x.outputBinding.getD 0).val)
      else []) ++
      (if x.unacknowledged = true then timeBytes (x.firstFire.getD 0) else []) ++
      (if x.lastFire.isSome = true then timeBytes (x.lastFire.getD 0) else []) ++
      match o with
      | none => []
      | some q => byte1 q.receiver.val ++ byte3 (ahead now q.lapse)

/-- QUERY-SET (R20, R177): every handle is judged as QUERY would judge it. Its entry is the code OK and the record report, or
STALE or NOT_SHARED and the handle, and the entries are laid in request order for as long as the next whole entry fits a body of
124 bytes, with the count of those laid before them. -/
def Obligations.QuerySetLaysTheEntriesThatFit : Prop :=
  (∀ s r (handles : List Handle),
    InService s r .querySet (byte1 handles.length ++ handles.flatMap handleBytes) →
    1 ≤ handles.length → handles.length ≤ 8 →
    ∃ n ≤ handles.length,
      let entries := handles.map (setEntry s r.port)
      4 + (entries.take n).flatten.length ≤ 124 ∧
      (n < handles.length → 124 < 4 + (entries.take (n + 1)).flatten.length) ∧
      Answers .querySet s r .ok (byte1 n ++ (entries.take n).flatten) s) ∧
  ∀ s c h,
    ((∀ x, ¬ Names s h x) → setEntry s c h = 0x45 :: handleBytes h) ∧
    ∀ x, Names s h x →
      (x.owner ≠ c → x.share = false → setEntry s c h = 0x47 :: handleBytes h) ∧
      (x.owner = c ∨ x.share = true → x.offered = false → setEntry s c h = 0x00 :: recordReport s.tableTime h x none) ∧
      (x.owner = c ∨ x.share = true →
        ∀ o ∈ s.offers, o.record = h.slot → OfferTableLaw s →
          setEntry s c h = 0x00 :: recordReport s.tableTime h x (some o))

/-! ### Arming, disarming and revising -/

/-- ARM (R63, R67, R71, R75, R80, R83): WRONG_STATE unless IDLE or FIRED, NO_TRIGGER for an unbound DELAYED record, and else the
staged period is applied and the record armed under its mode, the gate of a SINGLE, CYCLIC or SQUARE record sampled. -/
def Obligations.ArmStartsTheRecord : Prop :=
  ∀ s r h, InService s r .arm (handleBytes h) →
    OwnerOnly .arm s r h ∧
    ∀ x, Names s h x → x.owner = r.port →
      (x.state ≠ .idle → x.state ≠ .fired → Refuses .arm s r .wrongState) ∧
      (x.state = .idle ∨ x.state = .fired → x.mode = .delayed → x.triggerBinding = none → Refuses .arm s r .noTrigger) ∧
      (x.state = .idle ∨ x.state = .fired → RecordLaw x → OnItsLine s h.slot x →
        let p := periodOf x
        let due := after s.tableTime p
        let end1 := after s.tableTime ((p + 1) / 2)
        ((x.mode = .single ∨ x.mode = .cyclic) ∧ ¬ GateClosed s x ∨ x.mode = .watch →
          Answers .arm s r .ok ([1, 2] ++ timeBytes due ++ byte3 p)
            (changed s h.slot
              { applied x with state := .armed, dueTime := some due, outputLevel := heldLevel x .inactive }
              (scheduled s h.slot due))) ∧
        (x.mode = .square ∧ ¬ GateClosed s x →
          Answers .arm s r .ok ([1, 2] ++ timeBytes end1 ++ byte3 ((p + 1) / 2))
            (changed s h.slot
              { applied x with
                state := .armed, dueTime := some end1, phase := some .high, outputLevel := heldLevel x .active }
              (scheduled s h.slot end1))) ∧
        (x.mode = .single ∧ GateClosed s x →
          Answers .arm s r .ok ([2, 3] ++ byte3 p)
            (changed s h.slot
              { applied x with state := .suspended, remaining := some p, outputLevel := heldLevel x .inactive }
              s.schedule)) ∧
        ((x.mode = .cyclic ∨ x.mode = .square) ∧ GateClosed s x →
          Answers .arm s r .ok [0, 3]
            (changed s h.slot { applied x with state := .suspended, outputLevel := heldLevel x .inactive } s.schedule)) ∧
        (x.mode = .delayed → x.triggerBinding ≠ none →
          Answers .arm s r .ok [0, 4]
            (changed s h.slot { applied x with state := .waiting, outputLevel := heldLevel x .inactive } s.schedule)))

/-- DISARM (R65), the same in every mode: WRONG_STATE in IDLE, and else the record goes to IDLE, out of the schedule, its timing
and a staged period removed and its output INACTIVE, answered FIRED_BEFORE from FIRED. -/
def Obligations.DisarmReturnsToIdle : Prop :=
  ∀ s r h, InService s r .disarm (handleBytes h) →
    OwnerOnly .disarm s r h ∧
    ∀ x, Names s h x → x.owner = r.port →
      (x.state = .idle → Refuses .disarm s r .wrongState) ∧
      (x.state ≠ .idle → RecordLaw x → OnItsLine s h.slot x →
        Answers .disarm s r (if x.state = .fired then .firedBefore else .ok) (byte1 x.state.code)
          (changed s h.slot
            { x with
              state := .idle, dueTime := none, remaining := none, phase := none, staged := none,
              outputLevel := heldLevel x .inactive }
            (unscheduled s h.slot)))

/-- REVISE (R87 to R89, R97), with the answers and the effects of Table 5-1 in every mode and state. -/
def Obligations.ReviseReplacesOrStages : Prop :=
  ∀ s r h p, 1 ≤ p → p ≤ 16777215 → InService s r .revise (handleBytes h ++ byte3 p) →
    (∀ x, Names s h x → p = 1 → x.mode ≠ .cyclic ∧ x.mode ≠ .square) →
    OwnerOnly .revise s r h ∧
    ∀ x, Names s h x → x.owner = r.port → RecordLaw x → OnItsLine s h.slot x →
      let due := after s.tableTime p
      let y := { x with period := p, staged := none }
      let displaced := optBytes byte3 x.staged
      (x.mode = .single ∧ x.state = .armed →
        Answers .revise s r .ok ([4, 0] ++ byte3 p ++ [2] ++ timeBytes due ++ byte3 p)
          (changed s h.slot { y with dueTime := some due } (scheduled s h.slot due))) ∧
      (x.mode = .single ∧ x.state = .suspended →
        Answers .revise s r .ok ([8, 0] ++ byte3 p ++ [3] ++ byte3 p)
          (changed s h.slot { y with remaining := some p } s.schedule)) ∧
      (x.state = .idle ∨ x.state = .fired →
        Answers .revise s r .ok
          ([if x.staged = none then 0 else 2, 0] ++ byte3 p ++ byte1 x.state.code ++ displaced)
          (changed s h.slot y s.schedule)) ∧
      (x.mode ≠ .single → x.state ≠ .idle → x.state ≠ .fired →
        Answers .revise s r .ok
          ([if x.staged = none then 1 else 3, 1] ++ byte3 x.period ++ byte1 x.state.code ++ byte3 p ++ displaced)
          (changed s h.slot { x with staged := some p } s.schedule))

/-! ### Lines -/

/-- BIND-OUTPUT (R111): WRONG_STATE unless IDLE, LINE_BUSY for a line bound to another record, and else no change where the
record is bound there already, or the binding, with any other line of the record released. -/
def Obligations.BindOutputBindsAnIdleRecord : Prop :=
  ∀ s r h (k : Line), InService s r .bindOutput (handleBytes h ++ byte1 k.val) →
    OwnerOnly .bindOutput s r h ∧
    ∀ x, Names s h x → x.owner = r.port →
      let reply := fun driven => byte1 k.val ++ byte1 (levelCode (s.evt.get k).idle) ++ byte1 (levelCode driven)
      (x.state ≠ .idle → Refuses .bindOutput s r .wrongState) ∧
      (x.state = .idle → ∀ j, (s.evt.get k).bound = some j → j ≠ h.slot → Refuses .bindOutput s r .lineBusy) ∧
      (x.state = .idle → (∀ j, (s.evt.get k).bound = some j → j = h.slot) →
        (x.outputBinding = some k → Answers .bindOutput s r .ok (reply (s.evt.get k).driven) s) ∧
        (x.outputBinding ≠ some k →
          Answers .bindOutput s r .ok (reply (s.evt.get k).idle)
            { s with
              slots := slotsWith s h.slot { x with outputBinding := some k, outputLevel := some .inactive }
              evt :=
                (evtReleased s x.outputBinding).set k
                  { idle := (s.evt.get k).idle, bound := some h.slot, driven := (s.evt.get k).idle } }))

/-- BIND-TRIGGER (R107): WRONG_STATE unless IDLE, no change where the record is bound there already, and else the record leaves
any other list and joins the tail of the line's, its position reported from 1 at the head. -/
def Obligations.BindTriggerJoinsTheTail : Prop :=
  ∀ s r h (k : Line), InService s r .bindTrigger (handleBytes h ++ byte1 k.val) →
    OwnerOnly .bindTrigger s r h ∧
    ∀ x, Names s h x → x.owner = r.port →
      let line := s.trg.get k
      let reply := fun position : Nat =>
        byte1 k.val ++ byte1 (levelCode line.polarity) ++ byte1 (levelCode line.level)
          ++ yesNo (decide (line.level = line.polarity)) ++ byte2 position
      (x.state ≠ .idle → Refuses .bindTrigger s r .wrongState) ∧
      (x.state = .idle → x.triggerBinding = some k → ∀ ahead behind, line.listeners = ahead ++ h.slot :: behind →
        h.slot ∉ ahead → Answers .bindTrigger s r .ok (reply (ahead.length + 1)) s) ∧
      (x.state = .idle → x.triggerBinding ≠ some k → h.slot ∉ line.listeners →
        Answers .bindTrigger s r .ok (reply (line.listeners.length + 1))
          { s with
            slots := slotsWith s h.slot { x with triggerBinding := some k }
            trg := (trgLeft s h.slot x.triggerBinding).set k { line with listeners := line.listeners ++ [h.slot] } })

/-- UNBIND (R112): WRONG_STATE unless IDLE, and else the binding of the named kind is removed, its line released or its list
left, and the line reported, or nothing changes and none is reported. -/
def Obligations.UnbindRemovesABinding : Prop :=
  ∀ s r h (kind : BindingKind), InService s r .unbind (handleBytes h ++ byte1 kind.code) →
    OwnerOnly .unbind s r h ∧
    ∀ x, Names s h x → x.owner = r.port →
      (x.state ≠ .idle → Refuses .unbind s r .wrongState) ∧
      (x.state = .idle → kind = .output → ∀ k, x.outputBinding = some k →
        Answers .unbind s r .ok ([1, 0] ++ byte1 k.val)
          { s with
            slots := slotsWith s h.slot { x with outputBinding := none, outputLevel := none }
            evt := evtReleased s (some k) }) ∧
      (x.state = .idle → kind = .output → x.outputBinding = none → Answers .unbind s r .ok [0, 0] s) ∧
      (x.state = .idle → kind = .trigger → ∀ k, x.triggerBinding = some k →
        Answers .unbind s r .ok ([1, 1] ++ byte1 k.val)
          { s with
            slots := slotsWith s h.slot { x with triggerBinding := none }
            trg := trgLeft s h.slot (some k) }) ∧
      (x.state = .idle → kind = .trigger → x.triggerBinding = none → Answers .unbind s r .ok [0, 1] s)

/-- CONFIGURE-TRIGGER and CONFIGURE-OUTPUT (R108, R113): LINE_BUSY while a record listens on the line or is bound to it, and
else the polarity is set, with the driven level of an EVT line following at once. -/
def Obligations.ConfigureSetsThePolarity : Prop :=
  ∀ s r (k : Line) (polarity : Level),
    (InService s r .configureTrigger (byte1 k.val ++ byte1 (levelCode polarity)) →
      ((s.trg.get k).listeners ≠ [] → Refuses .configureTrigger s r .lineBusy) ∧
      ((s.trg.get k).listeners = [] →
        Answers .configureTrigger s r .ok
          (byte1 k.val ++ byte1 (levelCode polarity) ++ byte1 (levelCode (s.trg.get k).level)
            ++ yesNo (decide ((s.trg.get k).level = polarity)))
          { s with trg := s.trg.set k { s.trg.get k with polarity := polarity } })) ∧
    (InService s r .configureOutput (byte1 k.val ++ byte1 (levelCode polarity)) →
      ((s.evt.get k).bound ≠ none → Refuses .configureOutput s r .lineBusy) ∧
      ((s.evt.get k).bound = none →
        Answers .configureOutput s r .ok
          (byte1 k.val ++ byte1 (levelCode polarity) ++ byte1 (levelCode polarity))
          { s with evt := s.evt.set k { s.evt.get k with idle := polarity, driven := polarity } }))

/-- TRIGGER_EVENT (R102, R104): the new level is written, the event is an assert exactly when it is the active polarity, and it
is delivered to the listeners one after another, from head to tail. -/
def Obligations.TriggerEventIsDeliveredInListOrder : Prop :=
  ∀ s k level, (s.trg.get k).level ≠ level →
    exec (.triggerEvent k level) s =
      .next
        ((s.trg.get k).listeners.foldl (deliver (decide (level = (s.trg.get k).polarity)))
          { s with trg := s.trg.set k { s.trg.get k with level := level } })

/-- One delivery (R60, R68, R69, R73, R74, R78, R79, R81, R84): what an assert and a deassert make of a record in every mode and
state, and that a contrary event changes nothing. -/
def Obligations.DeliveryFollowsTheMode : Prop :=
  ∀ s i x, recordAt s i = some x → RecordLaw x → OnItsLine s i x →
    let p := periodOf x
    let due := after s.tableTime p
    let end1 := after s.tableTime ((p + 1) / 2)
    (∀ n, x.mode = .single → x.state = .suspended → x.remaining = some n →
      deliver true s i =
        changed s i { x with state := .armed, dueTime := some (after s.tableTime n), remaining := none }
          (scheduled s i (after s.tableTime n))) ∧
    (x.mode = .cyclic → x.state = .suspended →
      deliver true s i = changed s i { applied x with state := .armed, dueTime := some due } (scheduled s i due)) ∧
    (x.mode = .square → x.state = .suspended →
      deliver true s i =
        changed s i
          { applied x with
            state := .armed, dueTime := some end1, phase := some .high, outputLevel := heldLevel x .active }
          (scheduled s i end1)) ∧
    (x.mode = .delayed → x.state = .waiting ∨ x.state = .armed →
      deliver true s i =
        changed s i { applied x with state := .armed, dueTime := some due, outputLevel := heldLevel x .active }
          (scheduled s i due)) ∧
    (x.mode = .watch → x.state = .armed →
      deliver true s i = changed s i { applied x with dueTime := some due } (scheduled s i due)) ∧
    (x.state = .idle ∨ x.state = .fired ∨ (x.state = .armed ∧ x.mode ≠ .delayed ∧ x.mode ≠ .watch) →
      deliver true s i = s) ∧
    (∀ d, x.mode = .single → x.state = .armed → x.dueTime = some d →
      deliver false s i =
        changed s i { x with state := .suspended, dueTime := none, remaining := some (ahead s.tableTime d) }
          (unscheduled s i)) ∧
    (x.mode = .cyclic ∨ x.mode = .square → x.state = .armed →
      deliver false s i =
        changed s i
          { x with state := .suspended, dueTime := none, phase := none, outputLevel := heldLevel x .inactive }
          (unscheduled s i)) ∧
    (x.state ≠ .armed ∨ x.mode = .delayed ∨ x.mode = .watch → deliver false s i = s)

/-! ### Attention -/

/-- COLLECT (R127, R128, R178): the first entries of the requester's set, up to the count, are removed in one event and
reported in set order, then the entries remaining and the ATTN level after the COLLECT. -/
def Obligations.CollectRemovesTheFirstEntries : Prop :=
  ∀ s r (n : Nat), 1 ≤ n → n ≤ 8 → InService s r .collect (byte1 n) → AttentionLaw s →
    let set := (s.attn.get r.port).set
    let taken := set.take n
    (∀ i ∈ taken, ∀ x, recordAt s i = some x →
      collectReport s i =
        handleBytes { slot := i, generation := (s.slots.get i).generation } ++ byte2 x.tag.toNat ++ byte1 x.priority.val
          ++ timeBytes (x.firstFire.getD 0) ++ timeBytes (x.lastFire.getD 0) ++ byte1 x.overrun) ∧
    ∃ slots : Table Slot 2048,
      (∀ j, slots.get j =
        if j ∈ taken then
          { s.slots.get j with
            record :=
              (s.slots.get j).record.map fun x => { x with unacknowledged := false, firstFire := none, overrun := 0 } }
        else s.slots.get j) ∧
      let t := relined { s with slots := slots, attn := withSet s r.port (set.drop n) } r.port
      Answers .collect s r .ok
        (byte1 taken.length ++ taken.flatMap (collectReport s) ++ byte2 (set.length - n)
          ++ yesNo (t.attn.get r.port).line)
        t

/-- ACKNOWLEDGE (R123, R129): the named entry is removed wherever it stands and reported as it stood, with no change to the
rest of the record; NOTHING_PENDING, and no change, for a record that is not in the set. -/
def Obligations.AcknowledgeRemovesOneEntry : Prop :=
  ∀ s r h, InService s r .acknowledge (handleBytes h) →
    OwnerOnly .acknowledge s r h ∧
    ∀ x, Names s h x → x.owner = r.port →
      let set := (s.attn.get r.port).set
      let left := set.filter fun j => decide (j ≠ h.slot)
      let t :=
        relined
          { s with
            slots := slotsWith s h.slot { x with unacknowledged := false, firstFire := none, overrun := 0 }
            attn := withSet s r.port left }
          r.port
      (h.slot ∈ set → ∀ first last, x.firstFire = some first → x.lastFire = some last →
        Answers .acknowledge s r .ok
          ([3] ++ byte1 x.overrun ++ byte2 left.length ++ yesNo (t.attn.get r.port).line ++ timeBytes first
            ++ timeBytes last)
          t) ∧
      (h.slot ∉ set → x.lastFire = none →
        Answers .acknowledge s r .nothingPending ([0, 0] ++ byte2 set.length ++ yesNo (s.attn.get r.port).line) s) ∧
      (h.slot ∉ set → ∀ last, x.lastFire = some last →
        Answers .acknowledge s r .nothingPending
          ([2, 0] ++ byte2 set.length ++ yesNo (s.attn.get r.port).line ++ timeBytes last) s)

/-- SET-MASK (R130): the requester's mask level is written and its ATTN line recomputed. -/
def Obligations.SetMaskWritesTheLevel : Prop :=
  ∀ s r (n : Nat), n ≤ 4 → InService s r .setMask (byte1 n) →
    let t := relined { s with attn := s.attn.set r.port { s.attn.get r.port with mask := n } } r.port
    Answers .setMask s r .ok
      (byte1 n ++ byte1 (s.attn.get r.port).mask ++ byte2 (s.attn.get r.port).set.length
        ++ yesNo (t.attn.get r.port).line)
      t

/-! ### Offers -/

/-- OFFER (R138, R139): ALREADY_OFFERED, PURGING for the receiving client, OFFER_FULL, and else the offer joins the tail of
the table, with the receiver's ATTN line recomputed and the record untouched but for its offer field. -/
def Obligations.OfferOpensAtTheTail : Prop :=
  ∀ s r h (c : Client) (n : Nat), c ≠ r.port → 1 ≤ n → n ≤ 16777215 →
    InService s r .offer (handleBytes h ++ byte1 c.val ++ byte3 n) →
    OwnerOnly .offer s r h ∧
    ∀ x, Names s h x → x.owner = r.port →
      let lapse := after s.tableTime n
      (x.offered = true → Refuses .offer s r .alreadyOffered) ∧
      (x.offered = false → s.purging.get c = true → Refuses .offer s r .purging) ∧
      (x.offered = false → s.purging.get c = false → 32 ≤ s.offers.length → Refuses .offer s r .offerFull) ∧
      (x.offered = false → s.purging.get c = false → s.offers.length < 32 →
        Answers .offer s r .ok (timeBytes lapse ++ byte3 n ++ byte1 (s.offers.length + 1))
          (relined
            { s with
              slots := slotsWith s h.slot { x with offered := true }
              offers := s.offers ++ [{ record := h.slot, giver := r.port, receiver := c, lapse := lapse }] }
            c))

/-- ACCEPT (R140, R141): STALE, NO_OFFER, QUOTA with the offer left open, and else the record passes to the requester with the
owned counts, its attention entry and both ATTN lines, every other field and its handle unchanged. -/
def Obligations.AcceptHandsTheRecordOver : Prop :=
  ∀ s r h, InService s r .accept (handleBytes h) → OfferLaw s → AttentionLaw s →
    ((∀ x, ¬ Names s h x) → Refuses .accept s r .stale) ∧
    ∀ x, Names s h x →
      ((∀ o ∈ s.offers, o.record = h.slot → o.receiver ≠ r.port) → Refuses .accept s r .noOffer) ∧
      ∀ o ∈ s.offers, o.record = h.slot → o.receiver = r.port →
        (s.quota.get r.port ≤ s.owned.get r.port → Refuses .accept s r .quota) ∧
        (s.owned.get r.port < s.quota.get r.port →
          let giver := x.owner
          let taken := withSet s giver ((s.attn.get giver).set.filter fun j => decide (j ≠ h.slot))
          let moved :=
            taken.set r.port
              { s.attn.get r.port with set := grouped s x.priority.val h.slot (s.attn.get r.port).set }
          Answers .accept s r .ok
            (byte1 ((if x.outputBinding.isSome = true then 1 else 0) + (if x.triggerBinding.isSome = true then 2 else 0))
              ++ handleBytes h ++ byte1 giver.val ++ byte1 x.mode.code ++ byte1 x.state.code ++ byte2 x.tag.toNat
              ++ byte1 x.priority.val ++ yesNo x.share ++ yesNo x.unacknowledged
              ++ byte1 (if x.unacknowledged = true then x.overrun else 0) ++ byte2 (s.owned.get r.port + 1)
              ++ optBytes (fun k => byte1 k.val) x.outputBinding ++ optBytes (fun k => byte1 k.val) x.triggerBinding)
            (relined
              (relined
                { s with
                  slots := slotsWith s h.slot { x with owner := r.port, offered := false }
                  offers := s.offers.filter fun q => decide (q.record ≠ h.slot)
                  owned := (s.owned.set giver (s.owned.get giver - 1)).set r.port (s.owned.get r.port + 1)
                  attn := if x.unacknowledged = true then moved else s.attn }
                giver)
              r.port))

/-- DECLINE, WITHDRAW and LAPSE (R142 to R144): the checks of the two requests, and the one end of an offer that all three
make: it leaves the table, the record its offer field, and the receiving client's ATTN line is recomputed. -/
def Obligations.DeclineWithdrawAndLapseEndTheOffer : Prop :=
  ∀ s, OfferTableLaw s →
    (∀ r h, InService s r .decline (handleBytes h) →
      ((∀ x, ¬ Names s h x) → Refuses .decline s r .stale) ∧
      ∀ x, Names s h x →
        ((∀ o ∈ s.offers, o.record = h.slot → o.receiver ≠ r.port) → Refuses .decline s r .noOffer) ∧
        ∀ o ∈ s.offers, o.record = h.slot → o.receiver = r.port →
          Answers .decline s r .ok (byte1 o.giver.val) (relined (offerEnded s h.slot x) r.port)) ∧
    (∀ r h, InService s r .withdraw (handleBytes h) →
      OwnerOnly .withdraw s r h ∧
      ∀ x, Names s h x → x.owner = r.port →
        ((∀ o ∈ s.offers, o.record ≠ h.slot) → Refuses .withdraw s r .noOffer) ∧
        ∀ o ∈ s.offers, o.record = h.slot →
          Answers .withdraw s r .ok (byte1 o.receiver.val ++ byte3 (ahead s.tableTime o.lapse))
            (relined (offerEnded s h.slot x) o.receiver)) ∧
    ∀ i x, recordAt s i = some x → ∀ o ∈ s.offers, o.record = i → tbState s.timeBase = .running → 0 < s.timeBase.owed →
      ahead s.tableTime o.lapse = 1 → exec (.lapse i) s = .next (relined (offerEnded s i x) o.receiver)

/-! ### Requests that only read -/

/-- LIST-OFFERS, READ-TIME and DEVICE-STATUS (R39, R147, R178, R188): what each reports at one instant, with no change of
state. The pad byte is not read. -/
def Obligations.ReadingRequestsChangeNothing : Prop :=
  ∀ s r (pad : Byte),
    (InService s r .listOffers [pad] →
      let mine := s.offers.filter fun o => decide (o.receiver = r.port)
      Answers .listOffers s r .ok
        (byte1 (min 8 mine.length)
          ++ (mine.take 8).flatMap (fun o =>
            handleBytes { slot := o.record, generation := (s.slots.get o.record).generation } ++ byte1 o.giver.val
              ++ byte3 (ahead s.tableTime o.lapse))
          ++ byte1 (mine.length - 8))
        s) ∧
    (InService s r .readTime [pad] →
      Answers .readTime s r .ok
        (timeBytes s.tableTime ++ byte2 s.timeBase.owed ++ byte1 (tbState s.timeBase).code ++ yesNo s.timeBase.slipped)
        s) ∧
    (InService s r .deviceStatus [pad] →
      let client := fun c =>
        byte2 (s.quota.get c) ++ byte2 (s.owned.get c) ++ yesNo (s.purging.get c) ++ yesNo (s.control.get c)
      Answers .deviceStatus s r .ok
        (client 0 ++ client 1 ++ client 2 ++ client 3 ++ byte2 s.freeList.length ++ byte1 s.offers.length
          ++ byte1 (tbState s.timeBase).code ++ byte2 s.timeBase.owed ++ yesNo s.timeBase.slipped)
        s)

/-! ### The time base -/

/-- START-TIME (R36, R37): WRONG_STATE unless STOPPED, and else table time, the prescaler and the phase are set, SLIPPED and
the stopped flag cleared, and every due time and lapse time rebased by the same difference, modulo 2^32. -/
def Obligations.StartTimeRebasesEveryDeadline : Prop :=
  ∀ s r (new : Time) (n : Nat), 1 ≤ n → n ≤ 65536 → InService s r .startTime (timeBytes new ++ byte3 n) →
    (s.timeBase.stopped = false → Refuses .startTime s r .wrongState) ∧
    (s.timeBase.stopped = true →
      let d := new - s.tableTime
      Answers .startTime s r .ok [if s.timeBase.requestHold = true ∨ s.timeBase.lineHold = true then 2 else 1]
        { s with
          tableTime := new
          timeBase := { s.timeBase with stopped := false, prescaler := n, phase := 0, slipped := false }
          slots :=
            s.slots.map fun q =>
              { q with record := q.record.map fun x => { x with dueTime := x.dueTime.map fun due => due + d } }
          schedule := s.schedule.map fun e => { e with due := e.due + d }
          offers := s.offers.map fun o => { o with lapse := o.lapse + d } })

/-- STOP-TIME (R38): WRONG_STATE in STOPPED, and else the stopped flag is set, the owed count discarded and SLIPPED cleared,
with every other item, table time and every deadline unchanged. -/
def Obligations.StopTimeDiscardsOwedAdvances : Prop :=
  ∀ s r (pad : Byte), InService s r .stopTime [pad] →
    (s.timeBase.stopped = true → Refuses .stopTime s r .wrongState) ∧
    (s.timeBase.stopped = false →
      Answers .stopTime s r .ok [0]
        { s with timeBase := { s.timeBase with stopped := true, owed := 0, slipped := false } })

/-- The two hold sources and their release (R31 to R34): HOLD-TIME and HOLDIN set them, RELEASE-TIME and HOLDIN clear them, in
every time-base state, and clearing the last one while the stopped flag is clear is a release, at which SLIP discards the owed
count and CATCH_UP keeps it. Nothing else changes. HOLDIN is asserted high (R1). -/
def Obligations.HoldsAndTheirRelease : Prop :=
  ∀ s,
    let b := s.timeBase
    (detectedChange .holdin .high = some .holdinAsserts ∧ detectedChange .holdin .low = some .holdinDeasserts) ∧
    (∀ r pad, InService s r .holdTime [pad] →
      Answers .holdTime s r .ok [if b.stopped = true then 0 else 2] { s with timeBase := { b with requestHold := true } }) ∧
    (∀ r pad, InService s r .releaseTime [pad] →
      Answers .releaseTime s r .ok [if b.stopped = true then 0 else if b.lineHold = true then 2 else 1]
        { s with
          timeBase :=
            { b with
              requestHold := false
              owed :=
                if b.stopped = false ∧ b.requestHold = true ∧ b.lineHold = false ∧ b.policy = .slip then 0
                else b.owed } }) ∧
    exec .holdinAsserts s = .next { s with timeBase := { b with lineHold := true } } ∧
    exec .holdinDeasserts s =
      .next
        { s with
          timeBase :=
            { b with
              lineHold := false
              owed :=
                if b.stopped = false ∧ b.requestHold = false ∧ b.lineHold = true ∧ b.policy = .slip then 0
                else b.owed } } ∧
    ∀ r (policy : Policy), InService s r .setReleasePolicy (byte1 policy.code) →
      Answers .setReleasePolicy s r .ok (byte1 policy.code ++ byte1 b.policy.code)
        { s with timeBase := { b with policy := policy } }

/-- The REFCLK edges (R25, R26): below prescaler − 1 an edge raises the phase, at it the phase returns to 0 and one owed advance
is added, or lost with SLIPPED set at 65,535, and in STOPPED edges are ignored. -/
def Obligations.RefclkEdgesCountAdvances : Prop :=
  ∀ s,
    let b := s.timeBase
    (b.stopped = false → b.phase + 1 < b.prescaler →
      exec .refclkPhaseEdge s = .next { s with timeBase := { b with phase := b.phase + 1 } }) ∧
    (b.stopped = false → b.phase + 1 = b.prescaler → b.owed < 65535 →
      exec .owedAdvance s = .next { s with timeBase := { b with phase := 0, owed := b.owed + 1 } }) ∧
    (b.stopped = false → b.phase + 1 = b.prescaler → 65535 ≤ b.owed →
      exec .owedAdvance s = .next { s with timeBase := { b with phase := 0, slipped := true } }) ∧
    (b.stopped = true → exec .refclkPhaseEdge s = .next s ∧ exec .owedAdvance s = .next s)

/-! ### Advances and expiries -/

/-- ADVANCE (R28, R47, R51): while RUNNING with an advance owed and no offer at its last tick, the owed count falls by one,
table time rises by one, and the records due at the new table time expire one after another in schedule order. That an
ADVANCE command changes nothing otherwise is the model's choice (log entry 2). -/
def Obligations.AdvanceExpiresTheRecordsDue : Prop :=
  ∀ s,
    (tbState s.timeBase = .running → 0 < s.timeBase.owed → (∀ o ∈ s.offers, ahead s.tableTime o.lapse ≠ 1) →
      exec .advance s =
        .next
          (((s.schedule.filter fun e => decide (e.due = s.tableTime + 1)).map Entry.slot).foldl expireAt
            { s with
              tableTime := s.tableTime + 1, timeBase := { s.timeBase with owed := s.timeBase.owed - 1 } })) ∧
    (tbState s.timeBase ≠ .running ∨ s.timeBase.owed = 0 ∨ (∃ o ∈ s.offers, ahead s.tableTime o.lapse = 1) →
      exec .advance s = .next s)

/-- One expiry (R48, R49, R62, R70, R72, R76, R77, R82, R85, R120): a record due expires by the rule of its mode, with its
firing, its line and its place in the schedule. That an EXPIRY command taken by itself expires the head of the records due at
table time is the model's reading, DEDUCED (log entry 11). -/
def Obligations.ExpiryFollowsTheMode : Prop :=
  (∀ s i rest, (s.schedule.filter fun e => decide (e.due = s.tableTime)).map Entry.slot = i :: rest →
    exec .expiry s = .next (expireAt s i)) ∧
  ∀ s i x, recordAt s i = some x → RecordLaw x → x.dueTime = some s.tableTime → OnItsLine s i x →
    (x.unacknowledged = false → i ∉ (s.attn.get x.owner).set) →
    let p := periodOf x
    let due := after s.tableTime p
    let endHigh := after s.tableTime ((p + 1) / 2)
    let endLow := after s.tableTime (p / 2)
    (x.mode = .single ∨ x.mode = .watch →
      expireAt s i =
        firing s i { x with state := .fired, dueTime := none, outputLevel := heldLevel x .active } (unscheduled s i)) ∧
    (x.mode = .delayed →
      expireAt s i =
        firing s i { x with state := .waiting, dueTime := none, outputLevel := heldLevel x .inactive }
          (unscheduled s i)) ∧
    (x.mode = .cyclic →
      expireAt s i =
        firing s i
          { applied x with
            dueTime := some due
            outputLevel := x.outputLevel.map fun l => if l = .active then .inactive else .active }
          (scheduled s i due)) ∧
    (x.mode = .square → x.phase = some .high →
      expireAt s i =
        changed s i
          { applied x with dueTime := some endLow, phase := some .low, outputLevel := heldLevel x .inactive }
          (scheduled s i endLow)) ∧
    (x.mode = .square → x.phase = some .low →
      expireAt s i =
        firing s i
          { applied x with dueTime := some endHigh, phase := some .high, outputLevel := heldLevel x .active }
          (scheduled s i endHigh))

/-! ### Supervision and purge -/

/-- SET-QUOTA, GRANT-CONTROL and REVOKE-CONTROL (R174, R186, R187): QUOTA_SUM where the four quotas would exceed 2048, and else
the named client's quota, or its membership, is written and nothing else. -/
def Obligations.QuotaAndControlRequests : Prop :=
  ∀ s r (c : Client),
    (∀ n : Nat, n ≤ 2048 → InService s r .setQuota (byte1 c.val ++ byte2 n) →
      let q := s.quota.set c n
      let sum := q.get 0 + q.get 1 + q.get 2 + q.get 3
      (2048 < sum → Refuses .setQuota s r .quotaSum) ∧
      (sum ≤ 2048 →
        Answers .setQuota s r .ok
          (byte1 c.val ++ byte2 n ++ byte2 (s.quota.get c) ++ byte2 (s.owned.get c) ++ byte2 sum)
          { s with quota := q })) ∧
    (InService s r .grantControl (byte1 c.val) →
      let set := s.control.set c true
      Answers .grantControl s r .ok (presence [set.get 0, set.get 1, set.get 2, set.get 3]) { s with control := set }) ∧
    (c ≠ 0 → InService s r .revokeControl (byte1 c.val) →
      let set := s.control.set c false
      Answers .revokeControl s r .ok (presence [set.get 0, set.get 1, set.get 2, set.get 3]) { s with control := set })

/-- PURGE-CLIENT (R174, R190): PURGING where the named client is PURGING already, and else the marking, with the owned count
at the marking and the number of offers it removes. -/
def Obligations.PurgeClientMarksTheClient : Prop :=
  ∀ s r (c : Client), InService s r .purgeClient (byte1 c.val) →
    (s.purging.get c = true → Refuses .purgeClient s r .purging) ∧
    (s.purging.get c = false →
      Answers .purgeClient s r .ok
        (byte1 c.val ++ byte2 (s.owned.get c)
          ++ byte1 (s.offers.filter fun o => decide (o.giver = c ∨ o.receiver = c)).length)
        (markClient s c))

/-- A marking (R145, R190, R191): the client becomes PURGING and joins the purge queue, every offer it gives or receives ends with
its record's offer field, the ATTN line of each receiver concerned is recomputed, and nothing else changes. That the cursor
stands at slot 0 from the marking on, where no scan was in progress, is read from Table 11-2 (log entry 15). -/
def Obligations.MarkingEffects : Prop :=
  ∀ s c, OfferTableLaw s →
    let t := markClient s c
    let ends := fun o : Offer => o.giver = c ∨ o.receiver = c
    t.purging = s.purging.set c true ∧ t.purgeQueue = s.purgeQueue ++ [c] ∧
    t.cursor = (if s.purgeQueue = [] ∧ s.cursor = none then some 0 else s.cursor) ∧
    t.offers = s.offers.filter (fun o => decide (¬ ends o)) ∧
    (∀ i, (t.slots.get i).generation = (s.slots.get i).generation ∧
      ((∃ o ∈ s.offers, o.record = i ∧ ends o) → recordAt t i = (recordAt s i).map fun x => { x with offered := false }) ∧
      ((∀ o ∈ s.offers, o.record = i → ¬ ends o) → recordAt t i = recordAt s i)) ∧
    (∀ d, (t.attn.get d).set = (s.attn.get d).set ∧ (t.attn.get d).mask = (s.attn.get d).mask ∧
      ((∃ o ∈ s.offers, ends o ∧ o.receiver = d) → (t.attn.get d).line = attnAsserts t d) ∧
      ((∀ o ∈ s.offers, ends o → o.receiver ≠ d) → (t.attn.get d).line = (s.attn.get d).line)) ∧
    t = { s with
          slots := t.slots, offers := t.offers, attn := t.attn, purging := t.purging, purgeQueue := t.purgeQueue,
          cursor := t.cursor }

/-- PURGE_STEP (R191, R193): the slot at the cursor is examined, a record of the client at the head of the queue is retired, and
the cursor moves on; the step at slot 2047 makes the client NORMAL, takes it off the queue and removes the cursor. A scan with no
cursor yet begins at slot 0. -/
def Obligations.PurgeStepExaminesOneSlot : Prop :=
  ∀ s c rest u, s.purgeQueue = c :: rest →
    let i := s.cursor.getD 0
    ((∃ x, recordAt s i = some x ∧ x.owner = c ∧ u = retireRecord s i x) ∨
      ((∀ x, recordAt s i = some x → x.owner ≠ c) ∧ u = s)) →
    (∀ j : SlotId, j.val = i.val + 1 → exec .purgeStep s = .next { u with cursor := some j }) ∧
    (i.val = 2047 →
      exec .purgeStep s = .next { u with purging := u.purging.set c false, purgeQueue := rest, cursor := none })

/-! ### Ports -/

/-- PORT_RESET and PORT_RESET_RELEASE (R165, R166): the port in RESET with its queues emptied and its flags cleared, the
transfer ended, the response in service discarded, the mask level 0, the port out of the control set unless it is P0, and the
client marked unless it is PURGING; and the return to READY. A transfer that a reset ended, or that began in RESET, changes
nothing when SELn rises, whatever its bytes and even if the port is READY again: no SUBMIT is judged and no response removed.
While the port is in RESET, and to the end of a transfer that began in it, MISOn is at high impedance; that it is so too where
RESET ended the transfer and the port is READY before SELn rises is the model's choice (log entry 21). PRSTn is asserted low
(R1). -/
def Obligations.PortResetAndRelease : Prop :=
  ∀ s p,
    let q := s.ports.get p
    let u :=
      relined
        { s with
          ports :=
            s.ports.set p
              { q with
                state := .reset, assertTaken := true, inbound := [], outbound := [], refused := false,
                malformed := false, transfer := q.transfer.map fun t => { t with ended := true } }
          executor := s.executor.map fun r => if r.port = p then { r with discard := true } else r
          attn := s.attn.set p { s.attn.get p with mask := 0 }
          control := if p = 0 then s.control else s.control.set p false }
        p
    (q.assertTaken = false → s.purging.get p = true → exec (.portReset p) s = .next u) ∧
    (q.assertTaken = false → s.purging.get p = false → exec (.portReset p) s = .next (markClient u p)) ∧
    (q.assertTaken = true →
      exec (.portResetRelease p) s =
        .next { s with ports := s.ports.set p { q with state := .ready, assertTaken := false } }) ∧
    (detectedChange (.prst p) .low = some (.portReset p) ∧
      detectedChange (.prst p) .high = some (.portResetRelease p)) ∧
    ∀ t mosi c, q.transfer = some t → t.ended = true ∨ t.status = none →
      c = .submit p (.rises mosi) ∨ c = .fetch p (.rises mosi) ∨ c = .ignoredTransfer p (.rises mosi) →
      (q.state = .reset ∨ t.status = none → misoHighZ s p = true) ∧
        ∃ shifted, exec c s = .next { s with ports := s.ports.set p { q with transfer := none, shifted := shifted } }

/-- The fall of SELn (R152, R153, R166, R179): on a READY port the status is captured, byte 0 with the free inbound slots and the
responses waiting, byte 1 with the ATTN level, the two link flags and the purging item; on a port in RESET there is none. -/
def Obligations.TransferBeginsWithTheStatus : Prop :=
  ∀ s p (c : Instr), (c = .submit p .falls ∨ c = .fetch p .falls ∨ c = .ignoredTransfer p .falls) → PortLaw s p →
    (s.ports.get p).transfer = none →
    let q := s.ports.get p
    let begun := fun status =>
      { s with ports := s.ports.set p { q with transfer := some { status := status, ended := false, chosen := none } } }
    (q.state = .reset → exec c s = .next (begun none)) ∧
    (q.state = .ready →
      ∃ a b : Byte, exec c s = .next (begun (some (a, b))) ∧
        a.getLsbD 7 = false ∧
        (a.extractLsb' 4 3).toNat = min (4 - q.inbound.length) (8 - reservation s p) ∧
        (a.extractLsb' 0 4).toNat = q.outbound.length ∧
        b.extractLsb' 4 4 = 0 ∧ b.getLsbD 3 = (s.attn.get p).line ∧ b.getLsbD 2 = q.refused ∧
        b.getLsbD 1 = q.malformed ∧ b.getLsbD 0 = s.purging.get p)

/-- The rise of SELn at the end of a SUBMIT (R154, R155, R179), a transfer whose first byte is 0xA5: malformed, refused, or
accepted at the tail of the inbound queue, by the port as it stands then, with the link flags of each. `shifted` is the model's
record of MISOn (log entry 6). -/
def Obligations.SubmitIsJudgedAtTheRise : Prop :=
  ∀ s p mosi (t : Transfer) a b, (s.ports.get p).transfer = some t → t.status = some (a, b) → t.ended = false →
    t.chosen = none →
    let q := { s.ports.get p with transfer := none, shifted := misoBytes a b [] (mosi.length + 1) }
    let full := 4 ≤ q.inbound.length ∨ 8 ≤ reservation s p
    transferCommand p (0xA5 :: mosi) = .submit p (.rises (0xA5 :: mosi)) ∧
    (MalformedFrame mosi →
      exec (.submit p (.rises (0xA5 :: mosi))) s =
        .next { s with ports := s.ports.set p { q with malformed := true, refused := false } }) ∧
    ∀ body rest, RequestBody body → mosi = frame body ++ rest →
      (full →
        exec (.submit p (.rises (0xA5 :: mosi))) s =
          .next { s with ports := s.ports.set p { q with malformed := false, refused := true } }) ∧
      (¬ full →
        exec (.submit p (.rises (0xA5 :: mosi))) s =
          .next
            { s with
              ports := s.ports.set p { q with malformed := false, refused := false, inbound := q.inbound ++ [body] } })

/-- FETCH (R158, R159, R179), a transfer whose first byte is 0x5A: the response is chosen when the code is recognised, and it
leaves the head of the queue only if its frame was clocked out to the CRC; with none chosen a zero length byte is sent and nothing
is removed. `shifted` is the model's record of MISOn (log entry 6). -/
def Obligations.FetchRemovesAResponseSentWhole : Prop :=
  ∀ s p (t : Transfer) a b, (s.ports.get p).transfer = some t → t.status = some (a, b) → t.ended = false →
    let q := s.ports.get p
    firstByteCommand p 0x5A = some (.fetchCodeRecognised p) ∧
    (t.chosen = none →
      exec (.fetchCodeRecognised p) s =
        .next
          { s with
            ports := s.ports.set p { q with transfer := some { t with chosen := some q.outbound.head? } } }) ∧
    ∀ rest,
      let n := rest.length + 1
      transferCommand p (0x5A :: rest) = .fetch p (.rises (0x5A :: rest)) ∧
      (t.chosen = some none →
        exec (.fetch p (.rises (0x5A :: rest))) s =
          .next { s with ports := s.ports.set p { q with transfer := none, shifted := misoBytes a b [0] n } }) ∧
      ∀ body, t.chosen = some (some body) →
        exec (.fetch p (.rises (0x5A :: rest))) s =
          .next
            { s with
              ports :=
                s.ports.set p
                  { q with
                    transfer := none
                    shifted := misoBytes a b (frame body) n
                    outbound := if body.length + 4 ≤ n then q.outbound.tail else q.outbound } }

/-- An ignored transfer (R152, R153, R166, R179), whose first byte is neither code: on a READY port its rise changes nothing but
ends the transfer, with the status on MISOn first; on a transfer that began in RESET MISOn stayed at high impedance. What
follows the status, and `freeDraws`, are the model's free values (log entry 7), and nothing is said of them. -/
def Obligations.IgnoredTransferChangesNothing : Prop :=
  ∀ s p mosi (t : Transfer), (s.ports.get p).transfer = some t → t.ended = false → t.chosen = none →
    mosi.head? ≠ some 0xA5 → mosi.head? ≠ some 0x5A →
    transferCommand p mosi = .ignoredTransfer p (.rises mosi) ∧
    ∃ (shifted : List (Option Byte)) (draws : Nat),
      exec (.ignoredTransfer p (.rises mosi)) s =
        .next
          { s with
            ports := s.ports.set p { s.ports.get p with transfer := none, shifted := shifted }
            freeDraws := draws } ∧
      shifted.length = mosi.length ∧
      (∀ a b, t.status = some (a, b) → shifted.take 2 = [some a, some b].take mosi.length) ∧
      (t.status = none → shifted = List.replicate mosi.length none)

/-- SELECTION (R161): with no request in service, the first port in cyclic order after the last served that holds a frame gives
its head frame to the executor, the discard mark clear. That a SELECTION command changes nothing while a request is in service,
or with no frame queued, is the model's choice (log entry 2). -/
def Obligations.SelectionIsCyclic : Prop :=
  ∀ s,
    (∀ p body rest, s.executor = none → (s.ports.get p).inbound = body :: rest →
      (∀ q, (q - s.lastServed - 1).val < (p - s.lastServed - 1).val → (s.ports.get q).inbound = []) →
      exec .selection s =
        .next
          { s with
            ports := s.ports.set p { s.ports.get p with inbound := rest }
            executor := some { port := p, body := body, discard := false }
            lastServed := p }) ∧
    (s.executor ≠ none ∨ (∀ p, (s.ports.get p).inbound = []) → exec .selection s = .next s)

/-- The encodings read back (R5, R155, R180, R184): a frame gives its body whatever follows it, a CRC run on over the CRC byte
leaves 0, and the 16-bit values and the handles match one to one. -/
def Obligations.FramesAndHandlesReadBack : Prop :=
  (∀ body rest, RequestBody body → submittedBody (frame body ++ rest) = some body) ∧
  (∀ body, crc (frame body) = 0) ∧
  (∀ h : Handle, h.value < 65536 ∧ handleOf h.value = h) ∧
  ∀ n, n < 65536 → (handleOf n).value = n

end Statements
end

