-- ==== Sys2Proof/Laws/Lists.lean ====
section
/-! SUPPORT. The ordered lists of the part: where an entry is placed in the schedule and in an attention set, and what a removal
leaves. -/

namespace Sys2Proof.Machine

@[simp] theorem mem_dropSlot {i j : SlotId} {l : List SlotId} : j ∈ dropSlot i l ↔ j ∈ l ∧ j ≠ i := by
  simp [dropSlot]

theorem dropSlot_sublist (i : SlotId) (l : List SlotId) : (dropSlot i l).Sublist l := List.filter_sublist

theorem dropSlot_of_not_mem {i : SlotId} {l : List SlotId} (h : i ∉ l) : dropSlot i l = l := by
  refine List.filter_eq_self.2 fun j hj => ?_
  have hne : j ≠ i := fun e => h (e ▸ hj)
  simpa using hne

@[simp] theorem mem_removeEntry {i : SlotId} {e : Entry} {l : List Entry} :
    e ∈ removeEntry i l ↔ e ∈ l ∧ e.slot ≠ i := by
  simp [removeEntry]

theorem removeEntry_sublist (i : SlotId) (l : List Entry) : (removeEntry i l).Sublist l := List.filter_sublist

theorem removeEntry_of_not_mem {i : SlotId} {l : List Entry} (h : i ∉ l.map Entry.slot) : removeEntry i l = l := by
  refine List.filter_eq_self.2 fun e he => ?_
  have hne : e.slot ≠ i := fun hi => h (hi ▸ List.mem_map_of_mem he)
  simpa using hne

/-- An entry placed in the schedule goes in at one place and moves nothing else. -/
theorem placeEntry_perm (now : Time) (e : Entry) (l : List Entry) : (placeEntry now e l).Perm (e :: l) := by
  induction l with
  | nil => exact List.Perm.refl _
  | cons x rest ih =>
    unfold placeEntry
    split
    · exact (ih.cons x).trans (List.Perm.swap e x rest)
    · exact List.Perm.refl _

@[simp] theorem mem_placeEntry {now : Time} {e x : Entry} {l : List Entry} :
    x ∈ placeEntry now e l ↔ x = e ∨ x ∈ l := by
  rw [(placeEntry_perm now e l).mem_iff, List.mem_cons]

/-- The schedule's order is kept by a placement (R42). -/
theorem placeEntry_pairwise (now : Time) (e : Entry) {l : List Entry}
    (h : l.Pairwise fun a b => ahead now a.due ≤ ahead now b.due) :
    (placeEntry now e l).Pairwise fun a b => ahead now a.due ≤ ahead now b.due := by
  induction l with
  | nil => exact List.pairwise_singleton _ _
  | cons x rest ih =>
    unfold placeEntry
    have hx := List.pairwise_cons.1 h
    split
    · next hle =>
      refine List.pairwise_cons.2 ⟨fun b hb => ?_, ih hx.2⟩
      rcases mem_placeEntry.1 hb with rfl | hb
      · exact hle
      · exact hx.1 b hb
    · next hlt =>
      refine List.pairwise_cons.2 ⟨fun b hb => ?_, h⟩
      rcases List.mem_cons.1 hb with rfl | hb
      · omega
      · exact le_trans (by omega) (hx.1 b hb)

/-- A slot that joins a group goes in at one place and moves nothing else. -/
theorem joinGroup_perm (priority : SlotId → Nat) (i : SlotId) (l : List SlotId) :
    (joinGroup priority i l).Perm (i :: l) := by
  induction l with
  | nil => exact List.Perm.refl _
  | cons x rest ih =>
    unfold joinGroup
    split
    · exact List.Perm.refl _
    · exact (ih.cons x).trans (List.Perm.swap i x rest)

@[simp] theorem mem_joinGroup {priority : SlotId → Nat} {i j : SlotId} {l : List SlotId} :
    j ∈ joinGroup priority i l ↔ j = i ∨ j ∈ l := by
  rw [(joinGroup_perm priority i l).mem_iff, List.mem_cons]

/-- The order of an attention set is kept by a joining (R119). -/
theorem joinGroup_pairwise (priority : SlotId → Nat) (i : SlotId) {l : List SlotId}
    (h : l.Pairwise fun a b => priority b ≤ priority a) :
    (joinGroup priority i l).Pairwise fun a b => priority b ≤ priority a := by
  induction l with
  | nil => exact List.pairwise_singleton _ _
  | cons x rest ih =>
    unfold joinGroup
    have hx := List.pairwise_cons.1 h
    split
    · next hlt =>
      refine List.pairwise_cons.2 ⟨fun b hb => ?_, h⟩
      rcases List.mem_cons.1 hb with rfl | hb
      · omega
      · exact le_trans (hx.1 b hb) (by omega)
    · next hge =>
      refine List.pairwise_cons.2 ⟨fun b hb => ?_, ih hx.2⟩
      rcases mem_joinGroup.1 hb with rfl | hb
      · omega
      · exact hx.1 b hb

end Sys2Proof.Machine
end

