-- ==== Sys2Proof/Laws/Tables.lean ====
section
/-! SUPPORT. The laws of a fixed table: what is read after a write. -/

namespace Sys2Proof

variable {α β : Type} {n : Nat}

@[simp] theorem Table.get_set_self (t : Table α n) (i : Fin n) (a : α) : (t.set i a).get i = a := by
  simp [Table.get, Table.set]

theorem Table.get_set_of_ne (t : Table α n) {i j : Fin n} (a : α) (h : j ≠ i) : (t.set i a).get j = t.get j := by
  have h' : i.val ≠ j.val := fun e => h (Fin.ext e.symm)
  simp [Table.get, Table.set, h']

theorem Table.get_set (t : Table α n) (i j : Fin n) (a : α) : (t.set i a).get j = if j = i then a else t.get j := by
  split
  · next h => rw [h, Table.get_set_self]
  · next h => exact t.get_set_of_ne a h

@[simp] theorem Table.get_fill (a : α) (i : Fin n) : (Table.fill n a).get i = a := by
  simp [Table.get, Table.fill]

@[simp] theorem Table.get_map (t : Table α n) (f : α → β) (i : Fin n) : (t.map f).get i = f (t.get i) := by
  simp [Table.get, Table.map]

/-- Two tables that read the same everywhere are equal. -/
theorem Table.ext_get {t u : Table α n} (h : ∀ i, t.get i = u.get i) : t = u := by
  cases t with
  | mk l hl =>
    cases u with
    | mk m hm =>
      congr 1
      refine List.ext_getElem (hl.trans hm.symm) fun i h₁ h₂ => ?_
      exact h ⟨i, hl ▸ h₁⟩

@[simp] theorem Table.set_set (t : Table α n) (i : Fin n) (a b : α) : (t.set i a).set i b = t.set i b := by
  refine Table.ext_get fun j => ?_
  simp only [Table.get_set]
  split <;> rfl

@[simp] theorem Table.set_get (t : Table α n) (i : Fin n) : t.set i (t.get i) = t := by
  refine Table.ext_get fun j => ?_
  rw [Table.get_set]
  split
  · next h => rw [h]
  · rfl

theorem Table.set_comm (t : Table α n) {i j : Fin n} (a b : α) (h : i ≠ j) :
    (t.set i a).set j b = (t.set j b).set i a := by
  refine Table.ext_get fun k => ?_
  simp only [Table.get_set]
  split
  · next hk => rw [if_neg (fun e => h (e.symm.trans hk))]
  · rfl

end Sys2Proof
end

