-- ==== Sys2Proof/Laws/State.lean ====
section
/-! SUPPORT. One lemma per field per update: what each named operation leaves of a state, so that no proof unfolds a record
update. -/

namespace Sys2Proof.Machine

-- One proof at a time: many small proofs that wait for one another exhaust the thread stacks.
set_option Elab.async false

/-! ### putRecord -/

@[simp] theorem putRecord_slots (s : State) (i : SlotId) (r : Rec) : (putRecord s i r).slots = s.slots.set i { s.slots.get i with record := some r } := rfl
@[simp] theorem putRecord_freeList (s : State) (i : SlotId) (r : Rec) : (putRecord s i r).freeList = s.freeList := rfl
@[simp] theorem putRecord_owned (s : State) (i : SlotId) (r : Rec) : (putRecord s i r).owned = s.owned := rfl
@[simp] theorem putRecord_timeBase (s : State) (i : SlotId) (r : Rec) : (putRecord s i r).timeBase = s.timeBase := rfl
@[simp] theorem putRecord_tableTime (s : State) (i : SlotId) (r : Rec) : (putRecord s i r).tableTime = s.tableTime := rfl
@[simp] theorem putRecord_schedule (s : State) (i : SlotId) (r : Rec) : (putRecord s i r).schedule = s.schedule := rfl
@[simp] theorem putRecord_trg (s : State) (i : SlotId) (r : Rec) : (putRecord s i r).trg = s.trg := rfl
@[simp] theorem putRecord_evt (s : State) (i : SlotId) (r : Rec) : (putRecord s i r).evt = s.evt := rfl
@[simp] theorem putRecord_attn (s : State) (i : SlotId) (r : Rec) : (putRecord s i r).attn = s.attn := rfl
@[simp] theorem putRecord_offers (s : State) (i : SlotId) (r : Rec) : (putRecord s i r).offers = s.offers := rfl
@[simp] theorem putRecord_ports (s : State) (i : SlotId) (r : Rec) : (putRecord s i r).ports = s.ports := rfl
@[simp] theorem putRecord_executor (s : State) (i : SlotId) (r : Rec) : (putRecord s i r).executor = s.executor := rfl
@[simp] theorem putRecord_lastServed (s : State) (i : SlotId) (r : Rec) : (putRecord s i r).lastServed = s.lastServed := rfl
@[simp] theorem putRecord_control (s : State) (i : SlotId) (r : Rec) : (putRecord s i r).control = s.control := rfl
@[simp] theorem putRecord_quota (s : State) (i : SlotId) (r : Rec) : (putRecord s i r).quota = s.quota := rfl
@[simp] theorem putRecord_purging (s : State) (i : SlotId) (r : Rec) : (putRecord s i r).purging = s.purging := rfl
@[simp] theorem putRecord_purgeQueue (s : State) (i : SlotId) (r : Rec) : (putRecord s i r).purgeQueue = s.purgeQueue := rfl
@[simp] theorem putRecord_cursor (s : State) (i : SlotId) (r : Rec) : (putRecord s i r).cursor = s.cursor := rfl
@[simp] theorem putRecord_freeDraws (s : State) (i : SlotId) (r : Rec) : (putRecord s i r).freeDraws = s.freeDraws := rfl
@[simp] theorem putRecord_pending (s : State) (i : SlotId) (r : Rec) : (putRecord s i r).pending = s.pending := rfl

/-! ### putPort -/

@[simp] theorem putPort_slots (s : State) (p : Client) (q : Port) : (putPort s p q).slots = s.slots := rfl
@[simp] theorem putPort_freeList (s : State) (p : Client) (q : Port) : (putPort s p q).freeList = s.freeList := rfl
@[simp] theorem putPort_owned (s : State) (p : Client) (q : Port) : (putPort s p q).owned = s.owned := rfl
@[simp] theorem putPort_timeBase (s : State) (p : Client) (q : Port) : (putPort s p q).timeBase = s.timeBase := rfl
@[simp] theorem putPort_tableTime (s : State) (p : Client) (q : Port) : (putPort s p q).tableTime = s.tableTime := rfl
@[simp] theorem putPort_schedule (s : State) (p : Client) (q : Port) : (putPort s p q).schedule = s.schedule := rfl
@[simp] theorem putPort_trg (s : State) (p : Client) (q : Port) : (putPort s p q).trg = s.trg := rfl
@[simp] theorem putPort_evt (s : State) (p : Client) (q : Port) : (putPort s p q).evt = s.evt := rfl
@[simp] theorem putPort_attn (s : State) (p : Client) (q : Port) : (putPort s p q).attn = s.attn := rfl
@[simp] theorem putPort_offers (s : State) (p : Client) (q : Port) : (putPort s p q).offers = s.offers := rfl
@[simp] theorem putPort_ports (s : State) (p : Client) (q : Port) : (putPort s p q).ports = s.ports.set p q := rfl
@[simp] theorem putPort_executor (s : State) (p : Client) (q : Port) : (putPort s p q).executor = s.executor := rfl
@[simp] theorem putPort_lastServed (s : State) (p : Client) (q : Port) : (putPort s p q).lastServed = s.lastServed := rfl
@[simp] theorem putPort_control (s : State) (p : Client) (q : Port) : (putPort s p q).control = s.control := rfl
@[simp] theorem putPort_quota (s : State) (p : Client) (q : Port) : (putPort s p q).quota = s.quota := rfl
@[simp] theorem putPort_purging (s : State) (p : Client) (q : Port) : (putPort s p q).purging = s.purging := rfl
@[simp] theorem putPort_purgeQueue (s : State) (p : Client) (q : Port) : (putPort s p q).purgeQueue = s.purgeQueue := rfl
@[simp] theorem putPort_cursor (s : State) (p : Client) (q : Port) : (putPort s p q).cursor = s.cursor := rfl
@[simp] theorem putPort_freeDraws (s : State) (p : Client) (q : Port) : (putPort s p q).freeDraws = s.freeDraws := rfl
@[simp] theorem putPort_pending (s : State) (p : Client) (q : Port) : (putPort s p q).pending = s.pending := rfl

/-! ### putAttn -/

@[simp] theorem putAttn_slots (s : State) (c : Client) (a : Attn) : (putAttn s c a).slots = s.slots := rfl
@[simp] theorem putAttn_freeList (s : State) (c : Client) (a : Attn) : (putAttn s c a).freeList = s.freeList := rfl
@[simp] theorem putAttn_owned (s : State) (c : Client) (a : Attn) : (putAttn s c a).owned = s.owned := rfl
@[simp] theorem putAttn_timeBase (s : State) (c : Client) (a : Attn) : (putAttn s c a).timeBase = s.timeBase := rfl
@[simp] theorem putAttn_tableTime (s : State) (c : Client) (a : Attn) : (putAttn s c a).tableTime = s.tableTime := rfl
@[simp] theorem putAttn_schedule (s : State) (c : Client) (a : Attn) : (putAttn s c a).schedule = s.schedule := rfl
@[simp] theorem putAttn_trg (s : State) (c : Client) (a : Attn) : (putAttn s c a).trg = s.trg := rfl
@[simp] theorem putAttn_evt (s : State) (c : Client) (a : Attn) : (putAttn s c a).evt = s.evt := rfl
@[simp] theorem putAttn_attn (s : State) (c : Client) (a : Attn) : (putAttn s c a).attn = s.attn.set c a := rfl
@[simp] theorem putAttn_offers (s : State) (c : Client) (a : Attn) : (putAttn s c a).offers = s.offers := rfl
@[simp] theorem putAttn_ports (s : State) (c : Client) (a : Attn) : (putAttn s c a).ports = s.ports := rfl
@[simp] theorem putAttn_executor (s : State) (c : Client) (a : Attn) : (putAttn s c a).executor = s.executor := rfl
@[simp] theorem putAttn_lastServed (s : State) (c : Client) (a : Attn) : (putAttn s c a).lastServed = s.lastServed := rfl
@[simp] theorem putAttn_control (s : State) (c : Client) (a : Attn) : (putAttn s c a).control = s.control := rfl
@[simp] theorem putAttn_quota (s : State) (c : Client) (a : Attn) : (putAttn s c a).quota = s.quota := rfl
@[simp] theorem putAttn_purging (s : State) (c : Client) (a : Attn) : (putAttn s c a).purging = s.purging := rfl
@[simp] theorem putAttn_purgeQueue (s : State) (c : Client) (a : Attn) : (putAttn s c a).purgeQueue = s.purgeQueue := rfl
@[simp] theorem putAttn_cursor (s : State) (c : Client) (a : Attn) : (putAttn s c a).cursor = s.cursor := rfl
@[simp] theorem putAttn_freeDraws (s : State) (c : Client) (a : Attn) : (putAttn s c a).freeDraws = s.freeDraws := rfl
@[simp] theorem putAttn_pending (s : State) (c : Client) (a : Attn) : (putAttn s c a).pending = s.pending := rfl

/-! ### putEvt -/

@[simp] theorem putEvt_slots (s : State) (k : Line) (l : EvtLine) : (putEvt s k l).slots = s.slots := rfl
@[simp] theorem putEvt_freeList (s : State) (k : Line) (l : EvtLine) : (putEvt s k l).freeList = s.freeList := rfl
@[simp] theorem putEvt_owned (s : State) (k : Line) (l : EvtLine) : (putEvt s k l).owned = s.owned := rfl
@[simp] theorem putEvt_timeBase (s : State) (k : Line) (l : EvtLine) : (putEvt s k l).timeBase = s.timeBase := rfl
@[simp] theorem putEvt_tableTime (s : State) (k : Line) (l : EvtLine) : (putEvt s k l).tableTime = s.tableTime := rfl
@[simp] theorem putEvt_schedule (s : State) (k : Line) (l : EvtLine) : (putEvt s k l).schedule = s.schedule := rfl
@[simp] theorem putEvt_trg (s : State) (k : Line) (l : EvtLine) : (putEvt s k l).trg = s.trg := rfl
@[simp] theorem putEvt_evt (s : State) (k : Line) (l : EvtLine) : (putEvt s k l).evt = s.evt.set k l := rfl
@[simp] theorem putEvt_attn (s : State) (k : Line) (l : EvtLine) : (putEvt s k l).attn = s.attn := rfl
@[simp] theorem putEvt_offers (s : State) (k : Line) (l : EvtLine) : (putEvt s k l).offers = s.offers := rfl
@[simp] theorem putEvt_ports (s : State) (k : Line) (l : EvtLine) : (putEvt s k l).ports = s.ports := rfl
@[simp] theorem putEvt_executor (s : State) (k : Line) (l : EvtLine) : (putEvt s k l).executor = s.executor := rfl
@[simp] theorem putEvt_lastServed (s : State) (k : Line) (l : EvtLine) : (putEvt s k l).lastServed = s.lastServed := rfl
@[simp] theorem putEvt_control (s : State) (k : Line) (l : EvtLine) : (putEvt s k l).control = s.control := rfl
@[simp] theorem putEvt_quota (s : State) (k : Line) (l : EvtLine) : (putEvt s k l).quota = s.quota := rfl
@[simp] theorem putEvt_purging (s : State) (k : Line) (l : EvtLine) : (putEvt s k l).purging = s.purging := rfl
@[simp] theorem putEvt_purgeQueue (s : State) (k : Line) (l : EvtLine) : (putEvt s k l).purgeQueue = s.purgeQueue := rfl
@[simp] theorem putEvt_cursor (s : State) (k : Line) (l : EvtLine) : (putEvt s k l).cursor = s.cursor := rfl
@[simp] theorem putEvt_freeDraws (s : State) (k : Line) (l : EvtLine) : (putEvt s k l).freeDraws = s.freeDraws := rfl
@[simp] theorem putEvt_pending (s : State) (k : Line) (l : EvtLine) : (putEvt s k l).pending = s.pending := rfl

/-! ### putTrg -/

@[simp] theorem putTrg_slots (s : State) (k : Line) (l : TrgLine) : (putTrg s k l).slots = s.slots := rfl
@[simp] theorem putTrg_freeList (s : State) (k : Line) (l : TrgLine) : (putTrg s k l).freeList = s.freeList := rfl
@[simp] theorem putTrg_owned (s : State) (k : Line) (l : TrgLine) : (putTrg s k l).owned = s.owned := rfl
@[simp] theorem putTrg_timeBase (s : State) (k : Line) (l : TrgLine) : (putTrg s k l).timeBase = s.timeBase := rfl
@[simp] theorem putTrg_tableTime (s : State) (k : Line) (l : TrgLine) : (putTrg s k l).tableTime = s.tableTime := rfl
@[simp] theorem putTrg_schedule (s : State) (k : Line) (l : TrgLine) : (putTrg s k l).schedule = s.schedule := rfl
@[simp] theorem putTrg_trg (s : State) (k : Line) (l : TrgLine) : (putTrg s k l).trg = s.trg.set k l := rfl
@[simp] theorem putTrg_evt (s : State) (k : Line) (l : TrgLine) : (putTrg s k l).evt = s.evt := rfl
@[simp] theorem putTrg_attn (s : State) (k : Line) (l : TrgLine) : (putTrg s k l).attn = s.attn := rfl
@[simp] theorem putTrg_offers (s : State) (k : Line) (l : TrgLine) : (putTrg s k l).offers = s.offers := rfl
@[simp] theorem putTrg_ports (s : State) (k : Line) (l : TrgLine) : (putTrg s k l).ports = s.ports := rfl
@[simp] theorem putTrg_executor (s : State) (k : Line) (l : TrgLine) : (putTrg s k l).executor = s.executor := rfl
@[simp] theorem putTrg_lastServed (s : State) (k : Line) (l : TrgLine) : (putTrg s k l).lastServed = s.lastServed := rfl
@[simp] theorem putTrg_control (s : State) (k : Line) (l : TrgLine) : (putTrg s k l).control = s.control := rfl
@[simp] theorem putTrg_quota (s : State) (k : Line) (l : TrgLine) : (putTrg s k l).quota = s.quota := rfl
@[simp] theorem putTrg_purging (s : State) (k : Line) (l : TrgLine) : (putTrg s k l).purging = s.purging := rfl
@[simp] theorem putTrg_purgeQueue (s : State) (k : Line) (l : TrgLine) : (putTrg s k l).purgeQueue = s.purgeQueue := rfl
@[simp] theorem putTrg_cursor (s : State) (k : Line) (l : TrgLine) : (putTrg s k l).cursor = s.cursor := rfl
@[simp] theorem putTrg_freeDraws (s : State) (k : Line) (l : TrgLine) : (putTrg s k l).freeDraws = s.freeDraws := rfl
@[simp] theorem putTrg_pending (s : State) (k : Line) (l : TrgLine) : (putTrg s k l).pending = s.pending := rfl

/-! ### putOwned -/

@[simp] theorem putOwned_slots (s : State) (c : Client) (n : Nat) : (putOwned s c n).slots = s.slots := rfl
@[simp] theorem putOwned_freeList (s : State) (c : Client) (n : Nat) : (putOwned s c n).freeList = s.freeList := rfl
@[simp] theorem putOwned_owned (s : State) (c : Client) (n : Nat) : (putOwned s c n).owned = s.owned.set c n := rfl
@[simp] theorem putOwned_timeBase (s : State) (c : Client) (n : Nat) : (putOwned s c n).timeBase = s.timeBase := rfl
@[simp] theorem putOwned_tableTime (s : State) (c : Client) (n : Nat) : (putOwned s c n).tableTime = s.tableTime := rfl
@[simp] theorem putOwned_schedule (s : State) (c : Client) (n : Nat) : (putOwned s c n).schedule = s.schedule := rfl
@[simp] theorem putOwned_trg (s : State) (c : Client) (n : Nat) : (putOwned s c n).trg = s.trg := rfl
@[simp] theorem putOwned_evt (s : State) (c : Client) (n : Nat) : (putOwned s c n).evt = s.evt := rfl
@[simp] theorem putOwned_attn (s : State) (c : Client) (n : Nat) : (putOwned s c n).attn = s.attn := rfl
@[simp] theorem putOwned_offers (s : State) (c : Client) (n : Nat) : (putOwned s c n).offers = s.offers := rfl
@[simp] theorem putOwned_ports (s : State) (c : Client) (n : Nat) : (putOwned s c n).ports = s.ports := rfl
@[simp] theorem putOwned_executor (s : State) (c : Client) (n : Nat) : (putOwned s c n).executor = s.executor := rfl
@[simp] theorem putOwned_lastServed (s : State) (c : Client) (n : Nat) : (putOwned s c n).lastServed = s.lastServed := rfl
@[simp] theorem putOwned_control (s : State) (c : Client) (n : Nat) : (putOwned s c n).control = s.control := rfl
@[simp] theorem putOwned_quota (s : State) (c : Client) (n : Nat) : (putOwned s c n).quota = s.quota := rfl
@[simp] theorem putOwned_purging (s : State) (c : Client) (n : Nat) : (putOwned s c n).purging = s.purging := rfl
@[simp] theorem putOwned_purgeQueue (s : State) (c : Client) (n : Nat) : (putOwned s c n).purgeQueue = s.purgeQueue := rfl
@[simp] theorem putOwned_cursor (s : State) (c : Client) (n : Nat) : (putOwned s c n).cursor = s.cursor := rfl
@[simp] theorem putOwned_freeDraws (s : State) (c : Client) (n : Nat) : (putOwned s c n).freeDraws = s.freeDraws := rfl
@[simp] theorem putOwned_pending (s : State) (c : Client) (n : Nat) : (putOwned s c n).pending = s.pending := rfl

/-! ### drive -/

@[simp] theorem drive_slots (s : State) (k : Line) : (drive s k).slots = s.slots := rfl
@[simp] theorem drive_freeList (s : State) (k : Line) : (drive s k).freeList = s.freeList := rfl
@[simp] theorem drive_owned (s : State) (k : Line) : (drive s k).owned = s.owned := rfl
@[simp] theorem drive_timeBase (s : State) (k : Line) : (drive s k).timeBase = s.timeBase := rfl
@[simp] theorem drive_tableTime (s : State) (k : Line) : (drive s k).tableTime = s.tableTime := rfl
@[simp] theorem drive_schedule (s : State) (k : Line) : (drive s k).schedule = s.schedule := rfl
@[simp] theorem drive_trg (s : State) (k : Line) : (drive s k).trg = s.trg := rfl
@[simp] theorem drive_attn (s : State) (k : Line) : (drive s k).attn = s.attn := rfl
@[simp] theorem drive_offers (s : State) (k : Line) : (drive s k).offers = s.offers := rfl
@[simp] theorem drive_ports (s : State) (k : Line) : (drive s k).ports = s.ports := rfl
@[simp] theorem drive_executor (s : State) (k : Line) : (drive s k).executor = s.executor := rfl
@[simp] theorem drive_lastServed (s : State) (k : Line) : (drive s k).lastServed = s.lastServed := rfl
@[simp] theorem drive_control (s : State) (k : Line) : (drive s k).control = s.control := rfl
@[simp] theorem drive_quota (s : State) (k : Line) : (drive s k).quota = s.quota := rfl
@[simp] theorem drive_purging (s : State) (k : Line) : (drive s k).purging = s.purging := rfl
@[simp] theorem drive_purgeQueue (s : State) (k : Line) : (drive s k).purgeQueue = s.purgeQueue := rfl
@[simp] theorem drive_cursor (s : State) (k : Line) : (drive s k).cursor = s.cursor := rfl
@[simp] theorem drive_freeDraws (s : State) (k : Line) : (drive s k).freeDraws = s.freeDraws := rfl
@[simp] theorem drive_pending (s : State) (k : Line) : (drive s k).pending = s.pending := rfl

/-! ### releaseLine -/

@[simp] theorem releaseLine_slots (s : State) (k : Line) : (releaseLine s k).slots = s.slots := rfl
@[simp] theorem releaseLine_freeList (s : State) (k : Line) : (releaseLine s k).freeList = s.freeList := rfl
@[simp] theorem releaseLine_owned (s : State) (k : Line) : (releaseLine s k).owned = s.owned := rfl
@[simp] theorem releaseLine_timeBase (s : State) (k : Line) : (releaseLine s k).timeBase = s.timeBase := rfl
@[simp] theorem releaseLine_tableTime (s : State) (k : Line) : (releaseLine s k).tableTime = s.tableTime := rfl
@[simp] theorem releaseLine_schedule (s : State) (k : Line) : (releaseLine s k).schedule = s.schedule := rfl
@[simp] theorem releaseLine_trg (s : State) (k : Line) : (releaseLine s k).trg = s.trg := rfl
@[simp] theorem releaseLine_evt (s : State) (k : Line) : (releaseLine s k).evt = s.evt.set k { s.evt.get k with bound := none, driven := (s.evt.get k).idle } := rfl
@[simp] theorem releaseLine_attn (s : State) (k : Line) : (releaseLine s k).attn = s.attn := rfl
@[simp] theorem releaseLine_offers (s : State) (k : Line) : (releaseLine s k).offers = s.offers := rfl
@[simp] theorem releaseLine_ports (s : State) (k : Line) : (releaseLine s k).ports = s.ports := rfl
@[simp] theorem releaseLine_executor (s : State) (k : Line) : (releaseLine s k).executor = s.executor := rfl
@[simp] theorem releaseLine_lastServed (s : State) (k : Line) : (releaseLine s k).lastServed = s.lastServed := rfl
@[simp] theorem releaseLine_control (s : State) (k : Line) : (releaseLine s k).control = s.control := rfl
@[simp] theorem releaseLine_quota (s : State) (k : Line) : (releaseLine s k).quota = s.quota := rfl
@[simp] theorem releaseLine_purging (s : State) (k : Line) : (releaseLine s k).purging = s.purging := rfl
@[simp] theorem releaseLine_purgeQueue (s : State) (k : Line) : (releaseLine s k).purgeQueue = s.purgeQueue := rfl
@[simp] theorem releaseLine_cursor (s : State) (k : Line) : (releaseLine s k).cursor = s.cursor := rfl
@[simp] theorem releaseLine_freeDraws (s : State) (k : Line) : (releaseLine s k).freeDraws = s.freeDraws := rfl
@[simp] theorem releaseLine_pending (s : State) (k : Line) : (releaseLine s k).pending = s.pending := rfl

/-! ### unlisten -/

@[simp] theorem unlisten_slots (s : State) (k : Line) (i : SlotId) : (unlisten s k i).slots = s.slots := rfl
@[simp] theorem unlisten_freeList (s : State) (k : Line) (i : SlotId) : (unlisten s k i).freeList = s.freeList := rfl
@[simp] theorem unlisten_owned (s : State) (k : Line) (i : SlotId) : (unlisten s k i).owned = s.owned := rfl
@[simp] theorem unlisten_timeBase (s : State) (k : Line) (i : SlotId) : (unlisten s k i).timeBase = s.timeBase := rfl
@[simp] theorem unlisten_tableTime (s : State) (k : Line) (i : SlotId) : (unlisten s k i).tableTime = s.tableTime := rfl
@[simp] theorem unlisten_schedule (s : State) (k : Line) (i : SlotId) : (unlisten s k i).schedule = s.schedule := rfl
@[simp] theorem unlisten_trg (s : State) (k : Line) (i : SlotId) : (unlisten s k i).trg = s.trg.set k { s.trg.get k with listeners := dropSlot i (s.trg.get k).listeners } := rfl
@[simp] theorem unlisten_evt (s : State) (k : Line) (i : SlotId) : (unlisten s k i).evt = s.evt := rfl
@[simp] theorem unlisten_attn (s : State) (k : Line) (i : SlotId) : (unlisten s k i).attn = s.attn := rfl
@[simp] theorem unlisten_offers (s : State) (k : Line) (i : SlotId) : (unlisten s k i).offers = s.offers := rfl
@[simp] theorem unlisten_ports (s : State) (k : Line) (i : SlotId) : (unlisten s k i).ports = s.ports := rfl
@[simp] theorem unlisten_executor (s : State) (k : Line) (i : SlotId) : (unlisten s k i).executor = s.executor := rfl
@[simp] theorem unlisten_lastServed (s : State) (k : Line) (i : SlotId) : (unlisten s k i).lastServed = s.lastServed := rfl
@[simp] theorem unlisten_control (s : State) (k : Line) (i : SlotId) : (unlisten s k i).control = s.control := rfl
@[simp] theorem unlisten_quota (s : State) (k : Line) (i : SlotId) : (unlisten s k i).quota = s.quota := rfl
@[simp] theorem unlisten_purging (s : State) (k : Line) (i : SlotId) : (unlisten s k i).purging = s.purging := rfl
@[simp] theorem unlisten_purgeQueue (s : State) (k : Line) (i : SlotId) : (unlisten s k i).purgeQueue = s.purgeQueue := rfl
@[simp] theorem unlisten_cursor (s : State) (k : Line) (i : SlotId) : (unlisten s k i).cursor = s.cursor := rfl
@[simp] theorem unlisten_freeDraws (s : State) (k : Line) (i : SlotId) : (unlisten s k i).freeDraws = s.freeDraws := rfl
@[simp] theorem unlisten_pending (s : State) (k : Line) (i : SlotId) : (unlisten s k i).pending = s.pending := rfl

/-! ### refreshAttn -/

@[simp] theorem refreshAttn_slots (s : State) (c : Client) : (refreshAttn s c).slots = s.slots := rfl
@[simp] theorem refreshAttn_freeList (s : State) (c : Client) : (refreshAttn s c).freeList = s.freeList := rfl
@[simp] theorem refreshAttn_owned (s : State) (c : Client) : (refreshAttn s c).owned = s.owned := rfl
@[simp] theorem refreshAttn_timeBase (s : State) (c : Client) : (refreshAttn s c).timeBase = s.timeBase := rfl
@[simp] theorem refreshAttn_tableTime (s : State) (c : Client) : (refreshAttn s c).tableTime = s.tableTime := rfl
@[simp] theorem refreshAttn_schedule (s : State) (c : Client) : (refreshAttn s c).schedule = s.schedule := rfl
@[simp] theorem refreshAttn_trg (s : State) (c : Client) : (refreshAttn s c).trg = s.trg := rfl
@[simp] theorem refreshAttn_evt (s : State) (c : Client) : (refreshAttn s c).evt = s.evt := rfl
@[simp] theorem refreshAttn_attn (s : State) (c : Client) : (refreshAttn s c).attn = s.attn.set c { s.attn.get c with line := attnAsserts s c } := rfl
@[simp] theorem refreshAttn_offers (s : State) (c : Client) : (refreshAttn s c).offers = s.offers := rfl
@[simp] theorem refreshAttn_ports (s : State) (c : Client) : (refreshAttn s c).ports = s.ports := rfl
@[simp] theorem refreshAttn_executor (s : State) (c : Client) : (refreshAttn s c).executor = s.executor := rfl
@[simp] theorem refreshAttn_lastServed (s : State) (c : Client) : (refreshAttn s c).lastServed = s.lastServed := rfl
@[simp] theorem refreshAttn_control (s : State) (c : Client) : (refreshAttn s c).control = s.control := rfl
@[simp] theorem refreshAttn_quota (s : State) (c : Client) : (refreshAttn s c).quota = s.quota := rfl
@[simp] theorem refreshAttn_purging (s : State) (c : Client) : (refreshAttn s c).purging = s.purging := rfl
@[simp] theorem refreshAttn_purgeQueue (s : State) (c : Client) : (refreshAttn s c).purgeQueue = s.purgeQueue := rfl
@[simp] theorem refreshAttn_cursor (s : State) (c : Client) : (refreshAttn s c).cursor = s.cursor := rfl
@[simp] theorem refreshAttn_freeDraws (s : State) (c : Client) : (refreshAttn s c).freeDraws = s.freeDraws := rfl
@[simp] theorem refreshAttn_pending (s : State) (c : Client) : (refreshAttn s c).pending = s.pending := rfl

/-! ### joinSet -/

@[simp] theorem joinSet_slots (s : State) (c : Client) (i : SlotId) : (joinSet s c i).slots = s.slots := rfl
@[simp] theorem joinSet_freeList (s : State) (c : Client) (i : SlotId) : (joinSet s c i).freeList = s.freeList := rfl
@[simp] theorem joinSet_owned (s : State) (c : Client) (i : SlotId) : (joinSet s c i).owned = s.owned := rfl
@[simp] theorem joinSet_timeBase (s : State) (c : Client) (i : SlotId) : (joinSet s c i).timeBase = s.timeBase := rfl
@[simp] theorem joinSet_tableTime (s : State) (c : Client) (i : SlotId) : (joinSet s c i).tableTime = s.tableTime := rfl
@[simp] theorem joinSet_schedule (s : State) (c : Client) (i : SlotId) : (joinSet s c i).schedule = s.schedule := rfl
@[simp] theorem joinSet_trg (s : State) (c : Client) (i : SlotId) : (joinSet s c i).trg = s.trg := rfl
@[simp] theorem joinSet_evt (s : State) (c : Client) (i : SlotId) : (joinSet s c i).evt = s.evt := rfl
@[simp] theorem joinSet_attn (s : State) (c : Client) (i : SlotId) : (joinSet s c i).attn = s.attn.set c { s.attn.get c with set := joinGroup (priorityAt s) i (s.attn.get c).set } := rfl
@[simp] theorem joinSet_offers (s : State) (c : Client) (i : SlotId) : (joinSet s c i).offers = s.offers := rfl
@[simp] theorem joinSet_ports (s : State) (c : Client) (i : SlotId) : (joinSet s c i).ports = s.ports := rfl
@[simp] theorem joinSet_executor (s : State) (c : Client) (i : SlotId) : (joinSet s c i).executor = s.executor := rfl
@[simp] theorem joinSet_lastServed (s : State) (c : Client) (i : SlotId) : (joinSet s c i).lastServed = s.lastServed := rfl
@[simp] theorem joinSet_control (s : State) (c : Client) (i : SlotId) : (joinSet s c i).control = s.control := rfl
@[simp] theorem joinSet_quota (s : State) (c : Client) (i : SlotId) : (joinSet s c i).quota = s.quota := rfl
@[simp] theorem joinSet_purging (s : State) (c : Client) (i : SlotId) : (joinSet s c i).purging = s.purging := rfl
@[simp] theorem joinSet_purgeQueue (s : State) (c : Client) (i : SlotId) : (joinSet s c i).purgeQueue = s.purgeQueue := rfl
@[simp] theorem joinSet_cursor (s : State) (c : Client) (i : SlotId) : (joinSet s c i).cursor = s.cursor := rfl
@[simp] theorem joinSet_freeDraws (s : State) (c : Client) (i : SlotId) : (joinSet s c i).freeDraws = s.freeDraws := rfl
@[simp] theorem joinSet_pending (s : State) (c : Client) (i : SlotId) : (joinSet s c i).pending = s.pending := rfl

/-! ### leaveSet -/

@[simp] theorem leaveSet_slots (s : State) (c : Client) (i : SlotId) : (leaveSet s c i).slots = s.slots := rfl
@[simp] theorem leaveSet_freeList (s : State) (c : Client) (i : SlotId) : (leaveSet s c i).freeList = s.freeList := rfl
@[simp] theorem leaveSet_owned (s : State) (c : Client) (i : SlotId) : (leaveSet s c i).owned = s.owned := rfl
@[simp] theorem leaveSet_timeBase (s : State) (c : Client) (i : SlotId) : (leaveSet s c i).timeBase = s.timeBase := rfl
@[simp] theorem leaveSet_tableTime (s : State) (c : Client) (i : SlotId) : (leaveSet s c i).tableTime = s.tableTime := rfl
@[simp] theorem leaveSet_schedule (s : State) (c : Client) (i : SlotId) : (leaveSet s c i).schedule = s.schedule := rfl
@[simp] theorem leaveSet_trg (s : State) (c : Client) (i : SlotId) : (leaveSet s c i).trg = s.trg := rfl
@[simp] theorem leaveSet_evt (s : State) (c : Client) (i : SlotId) : (leaveSet s c i).evt = s.evt := rfl
@[simp] theorem leaveSet_attn (s : State) (c : Client) (i : SlotId) : (leaveSet s c i).attn = s.attn.set c { s.attn.get c with set := dropSlot i (s.attn.get c).set } := rfl
@[simp] theorem leaveSet_offers (s : State) (c : Client) (i : SlotId) : (leaveSet s c i).offers = s.offers := rfl
@[simp] theorem leaveSet_ports (s : State) (c : Client) (i : SlotId) : (leaveSet s c i).ports = s.ports := rfl
@[simp] theorem leaveSet_executor (s : State) (c : Client) (i : SlotId) : (leaveSet s c i).executor = s.executor := rfl
@[simp] theorem leaveSet_lastServed (s : State) (c : Client) (i : SlotId) : (leaveSet s c i).lastServed = s.lastServed := rfl
@[simp] theorem leaveSet_control (s : State) (c : Client) (i : SlotId) : (leaveSet s c i).control = s.control := rfl
@[simp] theorem leaveSet_quota (s : State) (c : Client) (i : SlotId) : (leaveSet s c i).quota = s.quota := rfl
@[simp] theorem leaveSet_purging (s : State) (c : Client) (i : SlotId) : (leaveSet s c i).purging = s.purging := rfl
@[simp] theorem leaveSet_purgeQueue (s : State) (c : Client) (i : SlotId) : (leaveSet s c i).purgeQueue = s.purgeQueue := rfl
@[simp] theorem leaveSet_cursor (s : State) (c : Client) (i : SlotId) : (leaveSet s c i).cursor = s.cursor := rfl
@[simp] theorem leaveSet_freeDraws (s : State) (c : Client) (i : SlotId) : (leaveSet s c i).freeDraws = s.freeDraws := rfl
@[simp] theorem leaveSet_pending (s : State) (c : Client) (i : SlotId) : (leaveSet s c i).pending = s.pending := rfl

/-! ### freeSlot -/

@[simp] theorem freeSlot_freeList (s : State) (i : SlotId) (c : Client) : (freeSlot s i c).freeList = s.freeList ++ [i] := rfl
@[simp] theorem freeSlot_owned (s : State) (i : SlotId) (c : Client) : (freeSlot s i c).owned = s.owned.set c (s.owned.get c - 1) := rfl
@[simp] theorem freeSlot_timeBase (s : State) (i : SlotId) (c : Client) : (freeSlot s i c).timeBase = s.timeBase := rfl
@[simp] theorem freeSlot_tableTime (s : State) (i : SlotId) (c : Client) : (freeSlot s i c).tableTime = s.tableTime := rfl
@[simp] theorem freeSlot_schedule (s : State) (i : SlotId) (c : Client) : (freeSlot s i c).schedule = s.schedule := rfl
@[simp] theorem freeSlot_trg (s : State) (i : SlotId) (c : Client) : (freeSlot s i c).trg = s.trg := rfl
@[simp] theorem freeSlot_evt (s : State) (i : SlotId) (c : Client) : (freeSlot s i c).evt = s.evt := rfl
@[simp] theorem freeSlot_attn (s : State) (i : SlotId) (c : Client) : (freeSlot s i c).attn = s.attn := rfl
@[simp] theorem freeSlot_offers (s : State) (i : SlotId) (c : Client) : (freeSlot s i c).offers = s.offers := rfl
@[simp] theorem freeSlot_ports (s : State) (i : SlotId) (c : Client) : (freeSlot s i c).ports = s.ports := rfl
@[simp] theorem freeSlot_executor (s : State) (i : SlotId) (c : Client) : (freeSlot s i c).executor = s.executor := rfl
@[simp] theorem freeSlot_lastServed (s : State) (i : SlotId) (c : Client) : (freeSlot s i c).lastServed = s.lastServed := rfl
@[simp] theorem freeSlot_control (s : State) (i : SlotId) (c : Client) : (freeSlot s i c).control = s.control := rfl
@[simp] theorem freeSlot_quota (s : State) (i : SlotId) (c : Client) : (freeSlot s i c).quota = s.quota := rfl
@[simp] theorem freeSlot_purging (s : State) (i : SlotId) (c : Client) : (freeSlot s i c).purging = s.purging := rfl
@[simp] theorem freeSlot_purgeQueue (s : State) (i : SlotId) (c : Client) : (freeSlot s i c).purgeQueue = s.purgeQueue := rfl
@[simp] theorem freeSlot_cursor (s : State) (i : SlotId) (c : Client) : (freeSlot s i c).cursor = s.cursor := rfl
@[simp] theorem freeSlot_freeDraws (s : State) (i : SlotId) (c : Client) : (freeSlot s i c).freeDraws = s.freeDraws := rfl
@[simp] theorem freeSlot_pending (s : State) (i : SlotId) (c : Client) : (freeSlot s i c).pending = s.pending := rfl

/-! ### driveBinding -/

@[simp] theorem driveBinding_slots (s : State) (b : Option Line) : (driveBinding s b).slots = s.slots := by
  cases b <;> rfl
@[simp] theorem driveBinding_freeList (s : State) (b : Option Line) : (driveBinding s b).freeList = s.freeList := by
  cases b <;> rfl
@[simp] theorem driveBinding_owned (s : State) (b : Option Line) : (driveBinding s b).owned = s.owned := by
  cases b <;> rfl
@[simp] theorem driveBinding_timeBase (s : State) (b : Option Line) : (driveBinding s b).timeBase = s.timeBase := by
  cases b <;> rfl
@[simp] theorem driveBinding_tableTime (s : State) (b : Option Line) : (driveBinding s b).tableTime = s.tableTime := by
  cases b <;> rfl
@[simp] theorem driveBinding_schedule (s : State) (b : Option Line) : (driveBinding s b).schedule = s.schedule := by
  cases b <;> rfl
@[simp] theorem driveBinding_trg (s : State) (b : Option Line) : (driveBinding s b).trg = s.trg := by
  cases b <;> rfl
@[simp] theorem driveBinding_attn (s : State) (b : Option Line) : (driveBinding s b).attn = s.attn := by
  cases b <;> rfl
@[simp] theorem driveBinding_offers (s : State) (b : Option Line) : (driveBinding s b).offers = s.offers := by
  cases b <;> rfl
@[simp] theorem driveBinding_ports (s : State) (b : Option Line) : (driveBinding s b).ports = s.ports := by
  cases b <;> rfl
@[simp] theorem driveBinding_executor (s : State) (b : Option Line) : (driveBinding s b).executor = s.executor := by
  cases b <;> rfl
@[simp] theorem driveBinding_lastServed (s : State) (b : Option Line) : (driveBinding s b).lastServed = s.lastServed := by
  cases b <;> rfl
@[simp] theorem driveBinding_control (s : State) (b : Option Line) : (driveBinding s b).control = s.control := by
  cases b <;> rfl
@[simp] theorem driveBinding_quota (s : State) (b : Option Line) : (driveBinding s b).quota = s.quota := by
  cases b <;> rfl
@[simp] theorem driveBinding_purging (s : State) (b : Option Line) : (driveBinding s b).purging = s.purging := by
  cases b <;> rfl
@[simp] theorem driveBinding_purgeQueue (s : State) (b : Option Line) : (driveBinding s b).purgeQueue = s.purgeQueue := by
  cases b <;> rfl
@[simp] theorem driveBinding_cursor (s : State) (b : Option Line) : (driveBinding s b).cursor = s.cursor := by
  cases b <;> rfl
@[simp] theorem driveBinding_freeDraws (s : State) (b : Option Line) : (driveBinding s b).freeDraws = s.freeDraws := by
  cases b <;> rfl
@[simp] theorem driveBinding_pending (s : State) (b : Option Line) : (driveBinding s b).pending = s.pending := by
  cases b <;> rfl

/-! ### mapRecord -/

@[simp] theorem mapRecord_freeList (s : State) (i : SlotId) (f : Rec → Rec) : (mapRecord s i f).freeList = s.freeList := by
  unfold mapRecord; split <;> rfl
@[simp] theorem mapRecord_owned (s : State) (i : SlotId) (f : Rec → Rec) : (mapRecord s i f).owned = s.owned := by
  unfold mapRecord; split <;> rfl
@[simp] theorem mapRecord_timeBase (s : State) (i : SlotId) (f : Rec → Rec) : (mapRecord s i f).timeBase = s.timeBase := by
  unfold mapRecord; split <;> rfl
@[simp] theorem mapRecord_tableTime (s : State) (i : SlotId) (f : Rec → Rec) : (mapRecord s i f).tableTime = s.tableTime := by
  unfold mapRecord; split <;> rfl
@[simp] theorem mapRecord_schedule (s : State) (i : SlotId) (f : Rec → Rec) : (mapRecord s i f).schedule = s.schedule := by
  unfold mapRecord; split <;> rfl
@[simp] theorem mapRecord_trg (s : State) (i : SlotId) (f : Rec → Rec) : (mapRecord s i f).trg = s.trg := by
  unfold mapRecord; split <;> rfl
@[simp] theorem mapRecord_evt (s : State) (i : SlotId) (f : Rec → Rec) : (mapRecord s i f).evt = s.evt := by
  unfold mapRecord; split <;> rfl
@[simp] theorem mapRecord_attn (s : State) (i : SlotId) (f : Rec → Rec) : (mapRecord s i f).attn = s.attn := by
  unfold mapRecord; split <;> rfl
@[simp] theorem mapRecord_offers (s : State) (i : SlotId) (f : Rec → Rec) : (mapRecord s i f).offers = s.offers := by
  unfold mapRecord; split <;> rfl
@[simp] theorem mapRecord_ports (s : State) (i : SlotId) (f : Rec → Rec) : (mapRecord s i f).ports = s.ports := by
  unfold mapRecord; split <;> rfl
@[simp] theorem mapRecord_executor (s : State) (i : SlotId) (f : Rec → Rec) : (mapRecord s i f).executor = s.executor := by
  unfold mapRecord; split <;> rfl
@[simp] theorem mapRecord_lastServed (s : State) (i : SlotId) (f : Rec → Rec) : (mapRecord s i f).lastServed = s.lastServed := by
  unfold mapRecord; split <;> rfl
@[simp] theorem mapRecord_control (s : State) (i : SlotId) (f : Rec → Rec) : (mapRecord s i f).control = s.control := by
  unfold mapRecord; split <;> rfl
@[simp] theorem mapRecord_quota (s : State) (i : SlotId) (f : Rec → Rec) : (mapRecord s i f).quota = s.quota := by
  unfold mapRecord; split <;> rfl
@[simp] theorem mapRecord_purging (s : State) (i : SlotId) (f : Rec → Rec) : (mapRecord s i f).purging = s.purging := by
  unfold mapRecord; split <;> rfl
@[simp] theorem mapRecord_purgeQueue (s : State) (i : SlotId) (f : Rec → Rec) : (mapRecord s i f).purgeQueue = s.purgeQueue := by
  unfold mapRecord; split <;> rfl
@[simp] theorem mapRecord_cursor (s : State) (i : SlotId) (f : Rec → Rec) : (mapRecord s i f).cursor = s.cursor := by
  unfold mapRecord; split <;> rfl
@[simp] theorem mapRecord_freeDraws (s : State) (i : SlotId) (f : Rec → Rec) : (mapRecord s i f).freeDraws = s.freeDraws := by
  unfold mapRecord; split <;> rfl
@[simp] theorem mapRecord_pending (s : State) (i : SlotId) (f : Rec → Rec) : (mapRecord s i f).pending = s.pending := by
  unfold mapRecord; split <;> rfl

/-! ### reschedule -/

@[simp] theorem reschedule_slots (s : State) (i : SlotId) (o : SchedOp) : (reschedule s i o).slots = s.slots := by
  cases o <;> rfl
@[simp] theorem reschedule_freeList (s : State) (i : SlotId) (o : SchedOp) : (reschedule s i o).freeList = s.freeList := by
  cases o <;> rfl
@[simp] theorem reschedule_owned (s : State) (i : SlotId) (o : SchedOp) : (reschedule s i o).owned = s.owned := by
  cases o <;> rfl
@[simp] theorem reschedule_timeBase (s : State) (i : SlotId) (o : SchedOp) : (reschedule s i o).timeBase = s.timeBase := by
  cases o <;> rfl
@[simp] theorem reschedule_tableTime (s : State) (i : SlotId) (o : SchedOp) : (reschedule s i o).tableTime = s.tableTime := by
  cases o <;> rfl
@[simp] theorem reschedule_trg (s : State) (i : SlotId) (o : SchedOp) : (reschedule s i o).trg = s.trg := by
  cases o <;> rfl
@[simp] theorem reschedule_evt (s : State) (i : SlotId) (o : SchedOp) : (reschedule s i o).evt = s.evt := by
  cases o <;> rfl
@[simp] theorem reschedule_attn (s : State) (i : SlotId) (o : SchedOp) : (reschedule s i o).attn = s.attn := by
  cases o <;> rfl
@[simp] theorem reschedule_offers (s : State) (i : SlotId) (o : SchedOp) : (reschedule s i o).offers = s.offers := by
  cases o <;> rfl
@[simp] theorem reschedule_ports (s : State) (i : SlotId) (o : SchedOp) : (reschedule s i o).ports = s.ports := by
  cases o <;> rfl
@[simp] theorem reschedule_executor (s : State) (i : SlotId) (o : SchedOp) : (reschedule s i o).executor = s.executor := by
  cases o <;> rfl
@[simp] theorem reschedule_lastServed (s : State) (i : SlotId) (o : SchedOp) : (reschedule s i o).lastServed = s.lastServed := by
  cases o <;> rfl
@[simp] theorem reschedule_control (s : State) (i : SlotId) (o : SchedOp) : (reschedule s i o).control = s.control := by
  cases o <;> rfl
@[simp] theorem reschedule_quota (s : State) (i : SlotId) (o : SchedOp) : (reschedule s i o).quota = s.quota := by
  cases o <;> rfl
@[simp] theorem reschedule_purging (s : State) (i : SlotId) (o : SchedOp) : (reschedule s i o).purging = s.purging := by
  cases o <;> rfl
@[simp] theorem reschedule_purgeQueue (s : State) (i : SlotId) (o : SchedOp) : (reschedule s i o).purgeQueue = s.purgeQueue := by
  cases o <;> rfl
@[simp] theorem reschedule_cursor (s : State) (i : SlotId) (o : SchedOp) : (reschedule s i o).cursor = s.cursor := by
  cases o <;> rfl
@[simp] theorem reschedule_freeDraws (s : State) (i : SlotId) (o : SchedOp) : (reschedule s i o).freeDraws = s.freeDraws := by
  cases o <;> rfl
@[simp] theorem reschedule_pending (s : State) (i : SlotId) (o : SchedOp) : (reschedule s i o).pending = s.pending := by
  cases o <;> rfl

/-! ### fire -/

@[simp] theorem fire_freeList (s : State) (i : SlotId) : (fire s i).freeList = s.freeList := by
  unfold fire; split; · rfl
  · split <;> rfl
@[simp] theorem fire_owned (s : State) (i : SlotId) : (fire s i).owned = s.owned := by
  unfold fire; split; · rfl
  · split <;> rfl
@[simp] theorem fire_timeBase (s : State) (i : SlotId) : (fire s i).timeBase = s.timeBase := by
  unfold fire; split; · rfl
  · split <;> rfl
@[simp] theorem fire_tableTime (s : State) (i : SlotId) : (fire s i).tableTime = s.tableTime := by
  unfold fire; split; · rfl
  · split <;> rfl
@[simp] theorem fire_schedule (s : State) (i : SlotId) : (fire s i).schedule = s.schedule := by
  unfold fire; split; · rfl
  · split <;> rfl
@[simp] theorem fire_trg (s : State) (i : SlotId) : (fire s i).trg = s.trg := by
  unfold fire; split; · rfl
  · split <;> rfl
@[simp] theorem fire_evt (s : State) (i : SlotId) : (fire s i).evt = s.evt := by
  unfold fire; split; · rfl
  · split <;> rfl
@[simp] theorem fire_offers (s : State) (i : SlotId) : (fire s i).offers = s.offers := by
  unfold fire; split; · rfl
  · split <;> rfl
@[simp] theorem fire_ports (s : State) (i : SlotId) : (fire s i).ports = s.ports := by
  unfold fire; split; · rfl
  · split <;> rfl
@[simp] theorem fire_executor (s : State) (i : SlotId) : (fire s i).executor = s.executor := by
  unfold fire; split; · rfl
  · split <;> rfl
@[simp] theorem fire_lastServed (s : State) (i : SlotId) : (fire s i).lastServed = s.lastServed := by
  unfold fire; split; · rfl
  · split <;> rfl
@[simp] theorem fire_control (s : State) (i : SlotId) : (fire s i).control = s.control := by
  unfold fire; split; · rfl
  · split <;> rfl
@[simp] theorem fire_quota (s : State) (i : SlotId) : (fire s i).quota = s.quota := by
  unfold fire; split; · rfl
  · split <;> rfl
@[simp] theorem fire_purging (s : State) (i : SlotId) : (fire s i).purging = s.purging := by
  unfold fire; split; · rfl
  · split <;> rfl
@[simp] theorem fire_purgeQueue (s : State) (i : SlotId) : (fire s i).purgeQueue = s.purgeQueue := by
  unfold fire; split; · rfl
  · split <;> rfl
@[simp] theorem fire_cursor (s : State) (i : SlotId) : (fire s i).cursor = s.cursor := by
  unfold fire; split; · rfl
  · split <;> rfl
@[simp] theorem fire_freeDraws (s : State) (i : SlotId) : (fire s i).freeDraws = s.freeDraws := by
  unfold fire; split; · rfl
  · split <;> rfl
@[simp] theorem fire_pending (s : State) (i : SlotId) : (fire s i).pending = s.pending := by
  unfold fire; split; · rfl
  · split <;> rfl

/-! ### removeOffer -/

@[simp] theorem removeOffer_freeList (s : State) (i : SlotId) : (removeOffer s i).freeList = s.freeList := by
  simp only [removeOffer, mapRecord_freeList]
@[simp] theorem removeOffer_owned (s : State) (i : SlotId) : (removeOffer s i).owned = s.owned := by
  simp only [removeOffer, mapRecord_owned]
@[simp] theorem removeOffer_timeBase (s : State) (i : SlotId) : (removeOffer s i).timeBase = s.timeBase := by
  simp only [removeOffer, mapRecord_timeBase]
@[simp] theorem removeOffer_tableTime (s : State) (i : SlotId) : (removeOffer s i).tableTime = s.tableTime := by
  simp only [removeOffer, mapRecord_tableTime]
@[simp] theorem removeOffer_schedule (s : State) (i : SlotId) : (removeOffer s i).schedule = s.schedule := by
  simp only [removeOffer, mapRecord_schedule]
@[simp] theorem removeOffer_trg (s : State) (i : SlotId) : (removeOffer s i).trg = s.trg := by
  simp only [removeOffer, mapRecord_trg]
@[simp] theorem removeOffer_evt (s : State) (i : SlotId) : (removeOffer s i).evt = s.evt := by
  simp only [removeOffer, mapRecord_evt]
@[simp] theorem removeOffer_attn (s : State) (i : SlotId) : (removeOffer s i).attn = s.attn := by
  simp only [removeOffer, mapRecord_attn]
@[simp] theorem removeOffer_ports (s : State) (i : SlotId) : (removeOffer s i).ports = s.ports := by
  simp only [removeOffer, mapRecord_ports]
@[simp] theorem removeOffer_executor (s : State) (i : SlotId) : (removeOffer s i).executor = s.executor := by
  simp only [removeOffer, mapRecord_executor]
@[simp] theorem removeOffer_lastServed (s : State) (i : SlotId) : (removeOffer s i).lastServed = s.lastServed := by
  simp only [removeOffer, mapRecord_lastServed]
@[simp] theorem removeOffer_control (s : State) (i : SlotId) : (removeOffer s i).control = s.control := by
  simp only [removeOffer, mapRecord_control]
@[simp] theorem removeOffer_quota (s : State) (i : SlotId) : (removeOffer s i).quota = s.quota := by
  simp only [removeOffer, mapRecord_quota]
@[simp] theorem removeOffer_purging (s : State) (i : SlotId) : (removeOffer s i).purging = s.purging := by
  simp only [removeOffer, mapRecord_purging]
@[simp] theorem removeOffer_purgeQueue (s : State) (i : SlotId) : (removeOffer s i).purgeQueue = s.purgeQueue := by
  simp only [removeOffer, mapRecord_purgeQueue]
@[simp] theorem removeOffer_cursor (s : State) (i : SlotId) : (removeOffer s i).cursor = s.cursor := by
  simp only [removeOffer, mapRecord_cursor]
@[simp] theorem removeOffer_freeDraws (s : State) (i : SlotId) : (removeOffer s i).freeDraws = s.freeDraws := by
  simp only [removeOffer, mapRecord_freeDraws]
@[simp] theorem removeOffer_pending (s : State) (i : SlotId) : (removeOffer s i).pending = s.pending := by
  simp only [removeOffer, mapRecord_pending]

/-! ### endOffer -/

@[simp] theorem endOffer_freeList (s : State) (o : Offer) : (endOffer s o).freeList = s.freeList := by
  simp only [endOffer, refreshAttn_freeList, removeOffer_freeList]
@[simp] theorem endOffer_owned (s : State) (o : Offer) : (endOffer s o).owned = s.owned := by
  simp only [endOffer, refreshAttn_owned, removeOffer_owned]
@[simp] theorem endOffer_timeBase (s : State) (o : Offer) : (endOffer s o).timeBase = s.timeBase := by
  simp only [endOffer, refreshAttn_timeBase, removeOffer_timeBase]
@[simp] theorem endOffer_tableTime (s : State) (o : Offer) : (endOffer s o).tableTime = s.tableTime := by
  simp only [endOffer, refreshAttn_tableTime, removeOffer_tableTime]
@[simp] theorem endOffer_schedule (s : State) (o : Offer) : (endOffer s o).schedule = s.schedule := by
  simp only [endOffer, refreshAttn_schedule, removeOffer_schedule]
@[simp] theorem endOffer_trg (s : State) (o : Offer) : (endOffer s o).trg = s.trg := by
  simp only [endOffer, refreshAttn_trg, removeOffer_trg]
@[simp] theorem endOffer_evt (s : State) (o : Offer) : (endOffer s o).evt = s.evt := by
  simp only [endOffer, refreshAttn_evt, removeOffer_evt]
@[simp] theorem endOffer_ports (s : State) (o : Offer) : (endOffer s o).ports = s.ports := by
  simp only [endOffer, refreshAttn_ports, removeOffer_ports]
@[simp] theorem endOffer_executor (s : State) (o : Offer) : (endOffer s o).executor = s.executor := by
  simp only [endOffer, refreshAttn_executor, removeOffer_executor]
@[simp] theorem endOffer_lastServed (s : State) (o : Offer) : (endOffer s o).lastServed = s.lastServed := by
  simp only [endOffer, refreshAttn_lastServed, removeOffer_lastServed]
@[simp] theorem endOffer_control (s : State) (o : Offer) : (endOffer s o).control = s.control := by
  simp only [endOffer, refreshAttn_control, removeOffer_control]
@[simp] theorem endOffer_quota (s : State) (o : Offer) : (endOffer s o).quota = s.quota := by
  simp only [endOffer, refreshAttn_quota, removeOffer_quota]
@[simp] theorem endOffer_purging (s : State) (o : Offer) : (endOffer s o).purging = s.purging := by
  simp only [endOffer, refreshAttn_purging, removeOffer_purging]
@[simp] theorem endOffer_purgeQueue (s : State) (o : Offer) : (endOffer s o).purgeQueue = s.purgeQueue := by
  simp only [endOffer, refreshAttn_purgeQueue, removeOffer_purgeQueue]
@[simp] theorem endOffer_cursor (s : State) (o : Offer) : (endOffer s o).cursor = s.cursor := by
  simp only [endOffer, refreshAttn_cursor, removeOffer_cursor]
@[simp] theorem endOffer_freeDraws (s : State) (o : Offer) : (endOffer s o).freeDraws = s.freeDraws := by
  simp only [endOffer, refreshAttn_freeDraws, removeOffer_freeDraws]
@[simp] theorem endOffer_pending (s : State) (o : Offer) : (endOffer s o).pending = s.pending := by
  simp only [endOffer, refreshAttn_pending, removeOffer_pending]

/-! ### endOffers -/

@[simp] theorem endOffers_freeList (s : State) (l : List Offer) : (endOffers s l).freeList = s.freeList := by
  induction l generalizing s with
  | nil => rfl
  | cons o rest ih => rw [endOffers, ih, endOffer_freeList]
@[simp] theorem endOffers_owned (s : State) (l : List Offer) : (endOffers s l).owned = s.owned := by
  induction l generalizing s with
  | nil => rfl
  | cons o rest ih => rw [endOffers, ih, endOffer_owned]
@[simp] theorem endOffers_timeBase (s : State) (l : List Offer) : (endOffers s l).timeBase = s.timeBase := by
  induction l generalizing s with
  | nil => rfl
  | cons o rest ih => rw [endOffers, ih, endOffer_timeBase]
@[simp] theorem endOffers_tableTime (s : State) (l : List Offer) : (endOffers s l).tableTime = s.tableTime := by
  induction l generalizing s with
  | nil => rfl
  | cons o rest ih => rw [endOffers, ih, endOffer_tableTime]
@[simp] theorem endOffers_schedule (s : State) (l : List Offer) : (endOffers s l).schedule = s.schedule := by
  induction l generalizing s with
  | nil => rfl
  | cons o rest ih => rw [endOffers, ih, endOffer_schedule]
@[simp] theorem endOffers_trg (s : State) (l : List Offer) : (endOffers s l).trg = s.trg := by
  induction l generalizing s with
  | nil => rfl
  | cons o rest ih => rw [endOffers, ih, endOffer_trg]
@[simp] theorem endOffers_evt (s : State) (l : List Offer) : (endOffers s l).evt = s.evt := by
  induction l generalizing s with
  | nil => rfl
  | cons o rest ih => rw [endOffers, ih, endOffer_evt]
@[simp] theorem endOffers_ports (s : State) (l : List Offer) : (endOffers s l).ports = s.ports := by
  induction l generalizing s with
  | nil => rfl
  | cons o rest ih => rw [endOffers, ih, endOffer_ports]
@[simp] theorem endOffers_executor (s : State) (l : List Offer) : (endOffers s l).executor = s.executor := by
  induction l generalizing s with
  | nil => rfl
  | cons o rest ih => rw [endOffers, ih, endOffer_executor]
@[simp] theorem endOffers_lastServed (s : State) (l : List Offer) : (endOffers s l).lastServed = s.lastServed := by
  induction l generalizing s with
  | nil => rfl
  | cons o rest ih => rw [endOffers, ih, endOffer_lastServed]
@[simp] theorem endOffers_control (s : State) (l : List Offer) : (endOffers s l).control = s.control := by
  induction l generalizing s with
  | nil => rfl
  | cons o rest ih => rw [endOffers, ih, endOffer_control]
@[simp] theorem endOffers_quota (s : State) (l : List Offer) : (endOffers s l).quota = s.quota := by
  induction l generalizing s with
  | nil => rfl
  | cons o rest ih => rw [endOffers, ih, endOffer_quota]
@[simp] theorem endOffers_purging (s : State) (l : List Offer) : (endOffers s l).purging = s.purging := by
  induction l generalizing s with
  | nil => rfl
  | cons o rest ih => rw [endOffers, ih, endOffer_purging]
@[simp] theorem endOffers_purgeQueue (s : State) (l : List Offer) : (endOffers s l).purgeQueue = s.purgeQueue := by
  induction l generalizing s with
  | nil => rfl
  | cons o rest ih => rw [endOffers, ih, endOffer_purgeQueue]
@[simp] theorem endOffers_cursor (s : State) (l : List Offer) : (endOffers s l).cursor = s.cursor := by
  induction l generalizing s with
  | nil => rfl
  | cons o rest ih => rw [endOffers, ih, endOffer_cursor]
@[simp] theorem endOffers_freeDraws (s : State) (l : List Offer) : (endOffers s l).freeDraws = s.freeDraws := by
  induction l generalizing s with
  | nil => rfl
  | cons o rest ih => rw [endOffers, ih, endOffer_freeDraws]
@[simp] theorem endOffers_pending (s : State) (l : List Offer) : (endOffers s l).pending = s.pending := by
  induction l generalizing s with
  | nil => rfl
  | cons o rest ih => rw [endOffers, ih, endOffer_pending]

/-! ### applyEffect -/

@[simp] theorem applyEffect_freeList (s : State) (i : SlotId) (e : Effect) : (applyEffect s i e).freeList = s.freeList := by
  unfold applyEffect; dsimp only; split <;> simp only [fire_freeList, reschedule_freeList, driveBinding_freeList, putRecord_freeList]
@[simp] theorem applyEffect_owned (s : State) (i : SlotId) (e : Effect) : (applyEffect s i e).owned = s.owned := by
  unfold applyEffect; dsimp only; split <;> simp only [fire_owned, reschedule_owned, driveBinding_owned, putRecord_owned]
@[simp] theorem applyEffect_timeBase (s : State) (i : SlotId) (e : Effect) : (applyEffect s i e).timeBase = s.timeBase := by
  unfold applyEffect; dsimp only; split <;> simp only [fire_timeBase, reschedule_timeBase, driveBinding_timeBase, putRecord_timeBase]
@[simp] theorem applyEffect_tableTime (s : State) (i : SlotId) (e : Effect) : (applyEffect s i e).tableTime = s.tableTime := by
  unfold applyEffect; dsimp only; split <;> simp only [fire_tableTime, reschedule_tableTime, driveBinding_tableTime, putRecord_tableTime]
@[simp] theorem applyEffect_trg (s : State) (i : SlotId) (e : Effect) : (applyEffect s i e).trg = s.trg := by
  unfold applyEffect; dsimp only; split <;> simp only [fire_trg, reschedule_trg, driveBinding_trg, putRecord_trg]
@[simp] theorem applyEffect_offers (s : State) (i : SlotId) (e : Effect) : (applyEffect s i e).offers = s.offers := by
  unfold applyEffect; dsimp only; split <;> simp only [fire_offers, reschedule_offers, driveBinding_offers, putRecord_offers]
@[simp] theorem applyEffect_ports (s : State) (i : SlotId) (e : Effect) : (applyEffect s i e).ports = s.ports := by
  unfold applyEffect; dsimp only; split <;> simp only [fire_ports, reschedule_ports, driveBinding_ports, putRecord_ports]
@[simp] theorem applyEffect_executor (s : State) (i : SlotId) (e : Effect) : (applyEffect s i e).executor = s.executor := by
  unfold applyEffect; dsimp only; split <;> simp only [fire_executor, reschedule_executor, driveBinding_executor, putRecord_executor]
@[simp] theorem applyEffect_lastServed (s : State) (i : SlotId) (e : Effect) : (applyEffect s i e).lastServed = s.lastServed := by
  unfold applyEffect; dsimp only; split <;> simp only [fire_lastServed, reschedule_lastServed, driveBinding_lastServed, putRecord_lastServed]
@[simp] theorem applyEffect_control (s : State) (i : SlotId) (e : Effect) : (applyEffect s i e).control = s.control := by
  unfold applyEffect; dsimp only; split <;> simp only [fire_control, reschedule_control, driveBinding_control, putRecord_control]
@[simp] theorem applyEffect_quota (s : State) (i : SlotId) (e : Effect) : (applyEffect s i e).quota = s.quota := by
  unfold applyEffect; dsimp only; split <;> simp only [fire_quota, reschedule_quota, driveBinding_quota, putRecord_quota]
@[simp] theorem applyEffect_purging (s : State) (i : SlotId) (e : Effect) : (applyEffect s i e).purging = s.purging := by
  unfold applyEffect; dsimp only; split <;> simp only [fire_purging, reschedule_purging, driveBinding_purging, putRecord_purging]
@[simp] theorem applyEffect_purgeQueue (s : State) (i : SlotId) (e : Effect) : (applyEffect s i e).purgeQueue = s.purgeQueue := by
  unfold applyEffect; dsimp only; split <;> simp only [fire_purgeQueue, reschedule_purgeQueue, driveBinding_purgeQueue, putRecord_purgeQueue]
@[simp] theorem applyEffect_cursor (s : State) (i : SlotId) (e : Effect) : (applyEffect s i e).cursor = s.cursor := by
  unfold applyEffect; dsimp only; split <;> simp only [fire_cursor, reschedule_cursor, driveBinding_cursor, putRecord_cursor]
@[simp] theorem applyEffect_freeDraws (s : State) (i : SlotId) (e : Effect) : (applyEffect s i e).freeDraws = s.freeDraws := by
  unfold applyEffect; dsimp only; split <;> simp only [fire_freeDraws, reschedule_freeDraws, driveBinding_freeDraws, putRecord_freeDraws]
@[simp] theorem applyEffect_pending (s : State) (i : SlotId) (e : Effect) : (applyEffect s i e).pending = s.pending := by
  unfold applyEffect; dsimp only; split <;> simp only [fire_pending, reschedule_pending, driveBinding_pending, putRecord_pending]

/-! ### retireOutput -/

@[simp] theorem retireOutput_slots (s : State) (r : Rec) : (retireOutput s r).slots = s.slots := by
  unfold retireOutput; split <;> rfl
@[simp] theorem retireOutput_freeList (s : State) (r : Rec) : (retireOutput s r).freeList = s.freeList := by
  unfold retireOutput; split <;> rfl
@[simp] theorem retireOutput_owned (s : State) (r : Rec) : (retireOutput s r).owned = s.owned := by
  unfold retireOutput; split <;> rfl
@[simp] theorem retireOutput_timeBase (s : State) (r : Rec) : (retireOutput s r).timeBase = s.timeBase := by
  unfold retireOutput; split <;> rfl
@[simp] theorem retireOutput_tableTime (s : State) (r : Rec) : (retireOutput s r).tableTime = s.tableTime := by
  unfold retireOutput; split <;> rfl
@[simp] theorem retireOutput_schedule (s : State) (r : Rec) : (retireOutput s r).schedule = s.schedule := by
  unfold retireOutput; split <;> rfl
@[simp] theorem retireOutput_trg (s : State) (r : Rec) : (retireOutput s r).trg = s.trg := by
  unfold retireOutput; split <;> rfl
@[simp] theorem retireOutput_attn (s : State) (r : Rec) : (retireOutput s r).attn = s.attn := by
  unfold retireOutput; split <;> rfl
@[simp] theorem retireOutput_offers (s : State) (r : Rec) : (retireOutput s r).offers = s.offers := by
  unfold retireOutput; split <;> rfl
@[simp] theorem retireOutput_ports (s : State) (r : Rec) : (retireOutput s r).ports = s.ports := by
  unfold retireOutput; split <;> rfl
@[simp] theorem retireOutput_executor (s : State) (r : Rec) : (retireOutput s r).executor = s.executor := by
  unfold retireOutput; split <;> rfl
@[simp] theorem retireOutput_lastServed (s : State) (r : Rec) : (retireOutput s r).lastServed = s.lastServed := by
  unfold retireOutput; split <;> rfl
@[simp] theorem retireOutput_control (s : State) (r : Rec) : (retireOutput s r).control = s.control := by
  unfold retireOutput; split <;> rfl
@[simp] theorem retireOutput_quota (s : State) (r : Rec) : (retireOutput s r).quota = s.quota := by
  unfold retireOutput; split <;> rfl
@[simp] theorem retireOutput_purging (s : State) (r : Rec) : (retireOutput s r).purging = s.purging := by
  unfold retireOutput; split <;> rfl
@[simp] theorem retireOutput_purgeQueue (s : State) (r : Rec) : (retireOutput s r).purgeQueue = s.purgeQueue := by
  unfold retireOutput; split <;> rfl
@[simp] theorem retireOutput_cursor (s : State) (r : Rec) : (retireOutput s r).cursor = s.cursor := by
  unfold retireOutput; split <;> rfl
@[simp] theorem retireOutput_freeDraws (s : State) (r : Rec) : (retireOutput s r).freeDraws = s.freeDraws := by
  unfold retireOutput; split <;> rfl
@[simp] theorem retireOutput_pending (s : State) (r : Rec) : (retireOutput s r).pending = s.pending := by
  unfold retireOutput; split <;> rfl

/-! ### retireTrigger -/

@[simp] theorem retireTrigger_slots (s : State) (i : SlotId) (r : Rec) : (retireTrigger s i r).slots = s.slots := by
  unfold retireTrigger; split <;> rfl
@[simp] theorem retireTrigger_freeList (s : State) (i : SlotId) (r : Rec) : (retireTrigger s i r).freeList = s.freeList := by
  unfold retireTrigger; split <;> rfl
@[simp] theorem retireTrigger_owned (s : State) (i : SlotId) (r : Rec) : (retireTrigger s i r).owned = s.owned := by
  unfold retireTrigger; split <;> rfl
@[simp] theorem retireTrigger_timeBase (s : State) (i : SlotId) (r : Rec) : (retireTrigger s i r).timeBase = s.timeBase := by
  unfold retireTrigger; split <;> rfl
@[simp] theorem retireTrigger_tableTime (s : State) (i : SlotId) (r : Rec) : (retireTrigger s i r).tableTime = s.tableTime := by
  unfold retireTrigger; split <;> rfl
@[simp] theorem retireTrigger_schedule (s : State) (i : SlotId) (r : Rec) : (retireTrigger s i r).schedule = s.schedule := by
  unfold retireTrigger; split <;> rfl
@[simp] theorem retireTrigger_evt (s : State) (i : SlotId) (r : Rec) : (retireTrigger s i r).evt = s.evt := by
  unfold retireTrigger; split <;> rfl
@[simp] theorem retireTrigger_attn (s : State) (i : SlotId) (r : Rec) : (retireTrigger s i r).attn = s.attn := by
  unfold retireTrigger; split <;> rfl
@[simp] theorem retireTrigger_offers (s : State) (i : SlotId) (r : Rec) : (retireTrigger s i r).offers = s.offers := by
  unfold retireTrigger; split <;> rfl
@[simp] theorem retireTrigger_ports (s : State) (i : SlotId) (r : Rec) : (retireTrigger s i r).ports = s.ports := by
  unfold retireTrigger; split <;> rfl
@[simp] theorem retireTrigger_executor (s : State) (i : SlotId) (r : Rec) : (retireTrigger s i r).executor = s.executor := by
  unfold retireTrigger; split <;> rfl
@[simp] theorem retireTrigger_lastServed (s : State) (i : SlotId) (r : Rec) : (retireTrigger s i r).lastServed = s.lastServed := by
  unfold retireTrigger; split <;> rfl
@[simp] theorem retireTrigger_control (s : State) (i : SlotId) (r : Rec) : (retireTrigger s i r).control = s.control := by
  unfold retireTrigger; split <;> rfl
@[simp] theorem retireTrigger_quota (s : State) (i : SlotId) (r : Rec) : (retireTrigger s i r).quota = s.quota := by
  unfold retireTrigger; split <;> rfl
@[simp] theorem retireTrigger_purging (s : State) (i : SlotId) (r : Rec) : (retireTrigger s i r).purging = s.purging := by
  unfold retireTrigger; split <;> rfl
@[simp] theorem retireTrigger_purgeQueue (s : State) (i : SlotId) (r : Rec) : (retireTrigger s i r).purgeQueue = s.purgeQueue := by
  unfold retireTrigger; split <;> rfl
@[simp] theorem retireTrigger_cursor (s : State) (i : SlotId) (r : Rec) : (retireTrigger s i r).cursor = s.cursor := by
  unfold retireTrigger; split <;> rfl
@[simp] theorem retireTrigger_freeDraws (s : State) (i : SlotId) (r : Rec) : (retireTrigger s i r).freeDraws = s.freeDraws := by
  unfold retireTrigger; split <;> rfl
@[simp] theorem retireTrigger_pending (s : State) (i : SlotId) (r : Rec) : (retireTrigger s i r).pending = s.pending := by
  unfold retireTrigger; split <;> rfl

/-! ### retireAttention -/

@[simp] theorem retireAttention_slots (s : State) (i : SlotId) (r : Rec) : (retireAttention s i r).slots = s.slots := by
  unfold retireAttention; split <;> rfl
@[simp] theorem retireAttention_freeList (s : State) (i : SlotId) (r : Rec) : (retireAttention s i r).freeList = s.freeList := by
  unfold retireAttention; split <;> rfl
@[simp] theorem retireAttention_owned (s : State) (i : SlotId) (r : Rec) : (retireAttention s i r).owned = s.owned := by
  unfold retireAttention; split <;> rfl
@[simp] theorem retireAttention_timeBase (s : State) (i : SlotId) (r : Rec) : (retireAttention s i r).timeBase = s.timeBase := by
  unfold retireAttention; split <;> rfl
@[simp] theorem retireAttention_tableTime (s : State) (i : SlotId) (r : Rec) : (retireAttention s i r).tableTime = s.tableTime := by
  unfold retireAttention; split <;> rfl
@[simp] theorem retireAttention_schedule (s : State) (i : SlotId) (r : Rec) : (retireAttention s i r).schedule = s.schedule := by
  unfold retireAttention; split <;> rfl
@[simp] theorem retireAttention_trg (s : State) (i : SlotId) (r : Rec) : (retireAttention s i r).trg = s.trg := by
  unfold retireAttention; split <;> rfl
@[simp] theorem retireAttention_evt (s : State) (i : SlotId) (r : Rec) : (retireAttention s i r).evt = s.evt := by
  unfold retireAttention; split <;> rfl
@[simp] theorem retireAttention_offers (s : State) (i : SlotId) (r : Rec) : (retireAttention s i r).offers = s.offers := by
  unfold retireAttention; split <;> rfl
@[simp] theorem retireAttention_ports (s : State) (i : SlotId) (r : Rec) : (retireAttention s i r).ports = s.ports := by
  unfold retireAttention; split <;> rfl
@[simp] theorem retireAttention_executor (s : State) (i : SlotId) (r : Rec) : (retireAttention s i r).executor = s.executor := by
  unfold retireAttention; split <;> rfl
@[simp] theorem retireAttention_lastServed (s : State) (i : SlotId) (r : Rec) : (retireAttention s i r).lastServed = s.lastServed := by
  unfold retireAttention; split <;> rfl
@[simp] theorem retireAttention_control (s : State) (i : SlotId) (r : Rec) : (retireAttention s i r).control = s.control := by
  unfold retireAttention; split <;> rfl
@[simp] theorem retireAttention_quota (s : State) (i : SlotId) (r : Rec) : (retireAttention s i r).quota = s.quota := by
  unfold retireAttention; split <;> rfl
@[simp] theorem retireAttention_purging (s : State) (i : SlotId) (r : Rec) : (retireAttention s i r).purging = s.purging := by
  unfold retireAttention; split <;> rfl
@[simp] theorem retireAttention_purgeQueue (s : State) (i : SlotId) (r : Rec) : (retireAttention s i r).purgeQueue = s.purgeQueue := by
  unfold retireAttention; split <;> rfl
@[simp] theorem retireAttention_cursor (s : State) (i : SlotId) (r : Rec) : (retireAttention s i r).cursor = s.cursor := by
  unfold retireAttention; split <;> rfl
@[simp] theorem retireAttention_freeDraws (s : State) (i : SlotId) (r : Rec) : (retireAttention s i r).freeDraws = s.freeDraws := by
  unfold retireAttention; split <;> rfl
@[simp] theorem retireAttention_pending (s : State) (i : SlotId) (r : Rec) : (retireAttention s i r).pending = s.pending := by
  unfold retireAttention; split <;> rfl

/-! ### retireOffer -/

@[simp] theorem retireOffer_freeList (s : State) (i : SlotId) : (retireOffer s i).freeList = s.freeList := by
  unfold retireOffer; split <;> simp only [endOffer_freeList]
@[simp] theorem retireOffer_owned (s : State) (i : SlotId) : (retireOffer s i).owned = s.owned := by
  unfold retireOffer; split <;> simp only [endOffer_owned]
@[simp] theorem retireOffer_timeBase (s : State) (i : SlotId) : (retireOffer s i).timeBase = s.timeBase := by
  unfold retireOffer; split <;> simp only [endOffer_timeBase]
@[simp] theorem retireOffer_tableTime (s : State) (i : SlotId) : (retireOffer s i).tableTime = s.tableTime := by
  unfold retireOffer; split <;> simp only [endOffer_tableTime]
@[simp] theorem retireOffer_schedule (s : State) (i : SlotId) : (retireOffer s i).schedule = s.schedule := by
  unfold retireOffer; split <;> simp only [endOffer_schedule]
@[simp] theorem retireOffer_trg (s : State) (i : SlotId) : (retireOffer s i).trg = s.trg := by
  unfold retireOffer; split <;> simp only [endOffer_trg]
@[simp] theorem retireOffer_evt (s : State) (i : SlotId) : (retireOffer s i).evt = s.evt := by
  unfold retireOffer; split <;> simp only [endOffer_evt]
@[simp] theorem retireOffer_ports (s : State) (i : SlotId) : (retireOffer s i).ports = s.ports := by
  unfold retireOffer; split <;> simp only [endOffer_ports]
@[simp] theorem retireOffer_executor (s : State) (i : SlotId) : (retireOffer s i).executor = s.executor := by
  unfold retireOffer; split <;> simp only [endOffer_executor]
@[simp] theorem retireOffer_lastServed (s : State) (i : SlotId) : (retireOffer s i).lastServed = s.lastServed := by
  unfold retireOffer; split <;> simp only [endOffer_lastServed]
@[simp] theorem retireOffer_control (s : State) (i : SlotId) : (retireOffer s i).control = s.control := by
  unfold retireOffer; split <;> simp only [endOffer_control]
@[simp] theorem retireOffer_quota (s : State) (i : SlotId) : (retireOffer s i).quota = s.quota := by
  unfold retireOffer; split <;> simp only [endOffer_quota]
@[simp] theorem retireOffer_purging (s : State) (i : SlotId) : (retireOffer s i).purging = s.purging := by
  unfold retireOffer; split <;> simp only [endOffer_purging]
@[simp] theorem retireOffer_purgeQueue (s : State) (i : SlotId) : (retireOffer s i).purgeQueue = s.purgeQueue := by
  unfold retireOffer; split <;> simp only [endOffer_purgeQueue]
@[simp] theorem retireOffer_cursor (s : State) (i : SlotId) : (retireOffer s i).cursor = s.cursor := by
  unfold retireOffer; split <;> simp only [endOffer_cursor]
@[simp] theorem retireOffer_freeDraws (s : State) (i : SlotId) : (retireOffer s i).freeDraws = s.freeDraws := by
  unfold retireOffer; split <;> simp only [endOffer_freeDraws]
@[simp] theorem retireOffer_pending (s : State) (i : SlotId) : (retireOffer s i).pending = s.pending := by
  unfold retireOffer; split <;> simp only [endOffer_pending]

/-! ### retireRecord -/

@[simp] theorem retireRecord_timeBase (s : State) (i : SlotId) (r : Rec) : (retireRecord s i r).timeBase = s.timeBase := by
  unfold retireRecord; dsimp only; simp only [freeSlot_timeBase, retireOffer_timeBase, retireAttention_timeBase, retireTrigger_timeBase, retireOutput_timeBase]; split <;> rfl
@[simp] theorem retireRecord_tableTime (s : State) (i : SlotId) (r : Rec) : (retireRecord s i r).tableTime = s.tableTime := by
  unfold retireRecord; dsimp only; simp only [freeSlot_tableTime, retireOffer_tableTime, retireAttention_tableTime, retireTrigger_tableTime, retireOutput_tableTime]; split <;> rfl
@[simp] theorem retireRecord_ports (s : State) (i : SlotId) (r : Rec) : (retireRecord s i r).ports = s.ports := by
  unfold retireRecord; dsimp only; simp only [freeSlot_ports, retireOffer_ports, retireAttention_ports, retireTrigger_ports, retireOutput_ports]; split <;> rfl
@[simp] theorem retireRecord_executor (s : State) (i : SlotId) (r : Rec) : (retireRecord s i r).executor = s.executor := by
  unfold retireRecord; dsimp only; simp only [freeSlot_executor, retireOffer_executor, retireAttention_executor, retireTrigger_executor, retireOutput_executor]; split <;> rfl
@[simp] theorem retireRecord_lastServed (s : State) (i : SlotId) (r : Rec) : (retireRecord s i r).lastServed = s.lastServed := by
  unfold retireRecord; dsimp only; simp only [freeSlot_lastServed, retireOffer_lastServed, retireAttention_lastServed, retireTrigger_lastServed, retireOutput_lastServed]; split <;> rfl
@[simp] theorem retireRecord_control (s : State) (i : SlotId) (r : Rec) : (retireRecord s i r).control = s.control := by
  unfold retireRecord; dsimp only; simp only [freeSlot_control, retireOffer_control, retireAttention_control, retireTrigger_control, retireOutput_control]; split <;> rfl
@[simp] theorem retireRecord_quota (s : State) (i : SlotId) (r : Rec) : (retireRecord s i r).quota = s.quota := by
  unfold retireRecord; dsimp only; simp only [freeSlot_quota, retireOffer_quota, retireAttention_quota, retireTrigger_quota, retireOutput_quota]; split <;> rfl
@[simp] theorem retireRecord_purging (s : State) (i : SlotId) (r : Rec) : (retireRecord s i r).purging = s.purging := by
  unfold retireRecord; dsimp only; simp only [freeSlot_purging, retireOffer_purging, retireAttention_purging, retireTrigger_purging, retireOutput_purging]; split <;> rfl
@[simp] theorem retireRecord_purgeQueue (s : State) (i : SlotId) (r : Rec) : (retireRecord s i r).purgeQueue = s.purgeQueue := by
  unfold retireRecord; dsimp only; simp only [freeSlot_purgeQueue, retireOffer_purgeQueue, retireAttention_purgeQueue, retireTrigger_purgeQueue, retireOutput_purgeQueue]; split <;> rfl
@[simp] theorem retireRecord_cursor (s : State) (i : SlotId) (r : Rec) : (retireRecord s i r).cursor = s.cursor := by
  unfold retireRecord; dsimp only; simp only [freeSlot_cursor, retireOffer_cursor, retireAttention_cursor, retireTrigger_cursor, retireOutput_cursor]; split <;> rfl
@[simp] theorem retireRecord_freeDraws (s : State) (i : SlotId) (r : Rec) : (retireRecord s i r).freeDraws = s.freeDraws := by
  unfold retireRecord; dsimp only; simp only [freeSlot_freeDraws, retireOffer_freeDraws, retireAttention_freeDraws, retireTrigger_freeDraws, retireOutput_freeDraws]; split <;> rfl
@[simp] theorem retireRecord_pending (s : State) (i : SlotId) (r : Rec) : (retireRecord s i r).pending = s.pending := by
  unfold retireRecord; dsimp only; simp only [freeSlot_pending, retireOffer_pending, retireAttention_pending, retireTrigger_pending, retireOutput_pending]; split <;> rfl

/-! ### markClient -/

@[simp] theorem markClient_freeList (s : State) (c : Client) : (markClient s c).freeList = s.freeList := by
  unfold markClient; dsimp only; simp only [endOffers_freeList]
@[simp] theorem markClient_owned (s : State) (c : Client) : (markClient s c).owned = s.owned := by
  unfold markClient; dsimp only; simp only [endOffers_owned]
@[simp] theorem markClient_timeBase (s : State) (c : Client) : (markClient s c).timeBase = s.timeBase := by
  unfold markClient; dsimp only; simp only [endOffers_timeBase]
@[simp] theorem markClient_tableTime (s : State) (c : Client) : (markClient s c).tableTime = s.tableTime := by
  unfold markClient; dsimp only; simp only [endOffers_tableTime]
@[simp] theorem markClient_schedule (s : State) (c : Client) : (markClient s c).schedule = s.schedule := by
  unfold markClient; dsimp only; simp only [endOffers_schedule]
@[simp] theorem markClient_trg (s : State) (c : Client) : (markClient s c).trg = s.trg := by
  unfold markClient; dsimp only; simp only [endOffers_trg]
@[simp] theorem markClient_evt (s : State) (c : Client) : (markClient s c).evt = s.evt := by
  unfold markClient; dsimp only; simp only [endOffers_evt]
@[simp] theorem markClient_ports (s : State) (c : Client) : (markClient s c).ports = s.ports := by
  unfold markClient; dsimp only; simp only [endOffers_ports]
@[simp] theorem markClient_executor (s : State) (c : Client) : (markClient s c).executor = s.executor := by
  unfold markClient; dsimp only; simp only [endOffers_executor]
@[simp] theorem markClient_lastServed (s : State) (c : Client) : (markClient s c).lastServed = s.lastServed := by
  unfold markClient; dsimp only; simp only [endOffers_lastServed]
@[simp] theorem markClient_control (s : State) (c : Client) : (markClient s c).control = s.control := by
  unfold markClient; dsimp only; simp only [endOffers_control]
@[simp] theorem markClient_quota (s : State) (c : Client) : (markClient s c).quota = s.quota := by
  unfold markClient; dsimp only; simp only [endOffers_quota]
@[simp] theorem markClient_freeDraws (s : State) (c : Client) : (markClient s c).freeDraws = s.freeDraws := by
  unfold markClient; dsimp only; simp only [endOffers_freeDraws]
@[simp] theorem markClient_pending (s : State) (c : Client) : (markClient s c).pending = s.pending := by
  unfold markClient; dsimp only; simp only [endOffers_pending]

/-! ### post -/

@[simp] theorem post_slots (s : State) (r : Serving) (code : ResultCode) (payload : List Byte) : (post s r code payload).slots = s.slots := by
  unfold post; split <;> rfl
@[simp] theorem post_freeList (s : State) (r : Serving) (code : ResultCode) (payload : List Byte) : (post s r code payload).freeList = s.freeList := by
  unfold post; split <;> rfl
@[simp] theorem post_owned (s : State) (r : Serving) (code : ResultCode) (payload : List Byte) : (post s r code payload).owned = s.owned := by
  unfold post; split <;> rfl
@[simp] theorem post_timeBase (s : State) (r : Serving) (code : ResultCode) (payload : List Byte) : (post s r code payload).timeBase = s.timeBase := by
  unfold post; split <;> rfl
@[simp] theorem post_tableTime (s : State) (r : Serving) (code : ResultCode) (payload : List Byte) : (post s r code payload).tableTime = s.tableTime := by
  unfold post; split <;> rfl
@[simp] theorem post_schedule (s : State) (r : Serving) (code : ResultCode) (payload : List Byte) : (post s r code payload).schedule = s.schedule := by
  unfold post; split <;> rfl
@[simp] theorem post_trg (s : State) (r : Serving) (code : ResultCode) (payload : List Byte) : (post s r code payload).trg = s.trg := by
  unfold post; split <;> rfl
@[simp] theorem post_evt (s : State) (r : Serving) (code : ResultCode) (payload : List Byte) : (post s r code payload).evt = s.evt := by
  unfold post; split <;> rfl
@[simp] theorem post_attn (s : State) (r : Serving) (code : ResultCode) (payload : List Byte) : (post s r code payload).attn = s.attn := by
  unfold post; split <;> rfl
@[simp] theorem post_offers (s : State) (r : Serving) (code : ResultCode) (payload : List Byte) : (post s r code payload).offers = s.offers := by
  unfold post; split <;> rfl
@[simp] theorem post_lastServed (s : State) (r : Serving) (code : ResultCode) (payload : List Byte) : (post s r code payload).lastServed = s.lastServed := by
  unfold post; split <;> rfl
@[simp] theorem post_control (s : State) (r : Serving) (code : ResultCode) (payload : List Byte) : (post s r code payload).control = s.control := by
  unfold post; split <;> rfl
@[simp] theorem post_quota (s : State) (r : Serving) (code : ResultCode) (payload : List Byte) : (post s r code payload).quota = s.quota := by
  unfold post; split <;> rfl
@[simp] theorem post_purging (s : State) (r : Serving) (code : ResultCode) (payload : List Byte) : (post s r code payload).purging = s.purging := by
  unfold post; split <;> rfl
@[simp] theorem post_purgeQueue (s : State) (r : Serving) (code : ResultCode) (payload : List Byte) : (post s r code payload).purgeQueue = s.purgeQueue := by
  unfold post; split <;> rfl
@[simp] theorem post_cursor (s : State) (r : Serving) (code : ResultCode) (payload : List Byte) : (post s r code payload).cursor = s.cursor := by
  unfold post; split <;> rfl
@[simp] theorem post_freeDraws (s : State) (r : Serving) (code : ResultCode) (payload : List Byte) : (post s r code payload).freeDraws = s.freeDraws := by
  unfold post; split <;> rfl
@[simp] theorem post_pending (s : State) (r : Serving) (code : ResultCode) (payload : List Byte) : (post s r code payload).pending = s.pending := by
  unfold post; split <;> rfl

/-! ### takeEntry -/

@[simp] theorem takeEntry_freeList (s : State) (c : Client) (i : SlotId) : (takeEntry s c i).freeList = s.freeList := by
  simp only [takeEntry, mapRecord_freeList, leaveSet_freeList]
@[simp] theorem takeEntry_owned (s : State) (c : Client) (i : SlotId) : (takeEntry s c i).owned = s.owned := by
  simp only [takeEntry, mapRecord_owned, leaveSet_owned]
@[simp] theorem takeEntry_timeBase (s : State) (c : Client) (i : SlotId) : (takeEntry s c i).timeBase = s.timeBase := by
  simp only [takeEntry, mapRecord_timeBase, leaveSet_timeBase]
@[simp] theorem takeEntry_tableTime (s : State) (c : Client) (i : SlotId) : (takeEntry s c i).tableTime = s.tableTime := by
  simp only [takeEntry, mapRecord_tableTime, leaveSet_tableTime]
@[simp] theorem takeEntry_schedule (s : State) (c : Client) (i : SlotId) : (takeEntry s c i).schedule = s.schedule := by
  simp only [takeEntry, mapRecord_schedule, leaveSet_schedule]
@[simp] theorem takeEntry_trg (s : State) (c : Client) (i : SlotId) : (takeEntry s c i).trg = s.trg := by
  simp only [takeEntry, mapRecord_trg, leaveSet_trg]
@[simp] theorem takeEntry_evt (s : State) (c : Client) (i : SlotId) : (takeEntry s c i).evt = s.evt := by
  simp only [takeEntry, mapRecord_evt, leaveSet_evt]
@[simp] theorem takeEntry_offers (s : State) (c : Client) (i : SlotId) : (takeEntry s c i).offers = s.offers := by
  simp only [takeEntry, mapRecord_offers, leaveSet_offers]
@[simp] theorem takeEntry_ports (s : State) (c : Client) (i : SlotId) : (takeEntry s c i).ports = s.ports := by
  simp only [takeEntry, mapRecord_ports, leaveSet_ports]
@[simp] theorem takeEntry_executor (s : State) (c : Client) (i : SlotId) : (takeEntry s c i).executor = s.executor := by
  simp only [takeEntry, mapRecord_executor, leaveSet_executor]
@[simp] theorem takeEntry_lastServed (s : State) (c : Client) (i : SlotId) : (takeEntry s c i).lastServed = s.lastServed := by
  simp only [takeEntry, mapRecord_lastServed, leaveSet_lastServed]
@[simp] theorem takeEntry_control (s : State) (c : Client) (i : SlotId) : (takeEntry s c i).control = s.control := by
  simp only [takeEntry, mapRecord_control, leaveSet_control]
@[simp] theorem takeEntry_quota (s : State) (c : Client) (i : SlotId) : (takeEntry s c i).quota = s.quota := by
  simp only [takeEntry, mapRecord_quota, leaveSet_quota]
@[simp] theorem takeEntry_purging (s : State) (c : Client) (i : SlotId) : (takeEntry s c i).purging = s.purging := by
  simp only [takeEntry, mapRecord_purging, leaveSet_purging]
@[simp] theorem takeEntry_purgeQueue (s : State) (c : Client) (i : SlotId) : (takeEntry s c i).purgeQueue = s.purgeQueue := by
  simp only [takeEntry, mapRecord_purgeQueue, leaveSet_purgeQueue]
@[simp] theorem takeEntry_cursor (s : State) (c : Client) (i : SlotId) : (takeEntry s c i).cursor = s.cursor := by
  simp only [takeEntry, mapRecord_cursor, leaveSet_cursor]
@[simp] theorem takeEntry_freeDraws (s : State) (c : Client) (i : SlotId) : (takeEntry s c i).freeDraws = s.freeDraws := by
  simp only [takeEntry, mapRecord_freeDraws, leaveSet_freeDraws]
@[simp] theorem takeEntry_pending (s : State) (c : Client) (i : SlotId) : (takeEntry s c i).pending = s.pending := by
  simp only [takeEntry, mapRecord_pending, leaveSet_pending]

/-! ### takeEntries -/

@[simp] theorem takeEntries_freeList (s : State) (c : Client) (l : List SlotId) : (takeEntries s c l).freeList = s.freeList := by
  induction l generalizing s with
  | nil => rfl
  | cons o rest ih => rw [takeEntries, ih, takeEntry_freeList]
@[simp] theorem takeEntries_owned (s : State) (c : Client) (l : List SlotId) : (takeEntries s c l).owned = s.owned := by
  induction l generalizing s with
  | nil => rfl
  | cons o rest ih => rw [takeEntries, ih, takeEntry_owned]
@[simp] theorem takeEntries_timeBase (s : State) (c : Client) (l : List SlotId) : (takeEntries s c l).timeBase = s.timeBase := by
  induction l generalizing s with
  | nil => rfl
  | cons o rest ih => rw [takeEntries, ih, takeEntry_timeBase]
@[simp] theorem takeEntries_tableTime (s : State) (c : Client) (l : List SlotId) : (takeEntries s c l).tableTime = s.tableTime := by
  induction l generalizing s with
  | nil => rfl
  | cons o rest ih => rw [takeEntries, ih, takeEntry_tableTime]
@[simp] theorem takeEntries_schedule (s : State) (c : Client) (l : List SlotId) : (takeEntries s c l).schedule = s.schedule := by
  induction l generalizing s with
  | nil => rfl
  | cons o rest ih => rw [takeEntries, ih, takeEntry_schedule]
@[simp] theorem takeEntries_trg (s : State) (c : Client) (l : List SlotId) : (takeEntries s c l).trg = s.trg := by
  induction l generalizing s with
  | nil => rfl
  | cons o rest ih => rw [takeEntries, ih, takeEntry_trg]
@[simp] theorem takeEntries_evt (s : State) (c : Client) (l : List SlotId) : (takeEntries s c l).evt = s.evt := by
  induction l generalizing s with
  | nil => rfl
  | cons o rest ih => rw [takeEntries, ih, takeEntry_evt]
@[simp] theorem takeEntries_offers (s : State) (c : Client) (l : List SlotId) : (takeEntries s c l).offers = s.offers := by
  induction l generalizing s with
  | nil => rfl
  | cons o rest ih => rw [takeEntries, ih, takeEntry_offers]
@[simp] theorem takeEntries_ports (s : State) (c : Client) (l : List SlotId) : (takeEntries s c l).ports = s.ports := by
  induction l generalizing s with
  | nil => rfl
  | cons o rest ih => rw [takeEntries, ih, takeEntry_ports]
@[simp] theorem takeEntries_executor (s : State) (c : Client) (l : List SlotId) : (takeEntries s c l).executor = s.executor := by
  induction l generalizing s with
  | nil => rfl
  | cons o rest ih => rw [takeEntries, ih, takeEntry_executor]
@[simp] theorem takeEntries_lastServed (s : State) (c : Client) (l : List SlotId) : (takeEntries s c l).lastServed = s.lastServed := by
  induction l generalizing s with
  | nil => rfl
  | cons o rest ih => rw [takeEntries, ih, takeEntry_lastServed]
@[simp] theorem takeEntries_control (s : State) (c : Client) (l : List SlotId) : (takeEntries s c l).control = s.control := by
  induction l generalizing s with
  | nil => rfl
  | cons o rest ih => rw [takeEntries, ih, takeEntry_control]
@[simp] theorem takeEntries_quota (s : State) (c : Client) (l : List SlotId) : (takeEntries s c l).quota = s.quota := by
  induction l generalizing s with
  | nil => rfl
  | cons o rest ih => rw [takeEntries, ih, takeEntry_quota]
@[simp] theorem takeEntries_purging (s : State) (c : Client) (l : List SlotId) : (takeEntries s c l).purging = s.purging := by
  induction l generalizing s with
  | nil => rfl
  | cons o rest ih => rw [takeEntries, ih, takeEntry_purging]
@[simp] theorem takeEntries_purgeQueue (s : State) (c : Client) (l : List SlotId) : (takeEntries s c l).purgeQueue = s.purgeQueue := by
  induction l generalizing s with
  | nil => rfl
  | cons o rest ih => rw [takeEntries, ih, takeEntry_purgeQueue]
@[simp] theorem takeEntries_cursor (s : State) (c : Client) (l : List SlotId) : (takeEntries s c l).cursor = s.cursor := by
  induction l generalizing s with
  | nil => rfl
  | cons o rest ih => rw [takeEntries, ih, takeEntry_cursor]
@[simp] theorem takeEntries_freeDraws (s : State) (c : Client) (l : List SlotId) : (takeEntries s c l).freeDraws = s.freeDraws := by
  induction l generalizing s with
  | nil => rfl
  | cons o rest ih => rw [takeEntries, ih, takeEntry_freeDraws]
@[simp] theorem takeEntries_pending (s : State) (c : Client) (l : List SlotId) : (takeEntries s c l).pending = s.pending := by
  induction l generalizing s with
  | nil => rfl
  | cons o rest ih => rw [takeEntries, ih, takeEntry_pending]

/-! ### expireAt -/

@[simp] theorem expireAt_freeList (s : State) (i : SlotId) : (expireAt s i).freeList = s.freeList := by
  unfold expireAt; split <;> simp only [applyEffect_freeList]
@[simp] theorem expireAt_owned (s : State) (i : SlotId) : (expireAt s i).owned = s.owned := by
  unfold expireAt; split <;> simp only [applyEffect_owned]
@[simp] theorem expireAt_timeBase (s : State) (i : SlotId) : (expireAt s i).timeBase = s.timeBase := by
  unfold expireAt; split <;> simp only [applyEffect_timeBase]
@[simp] theorem expireAt_tableTime (s : State) (i : SlotId) : (expireAt s i).tableTime = s.tableTime := by
  unfold expireAt; split <;> simp only [applyEffect_tableTime]
@[simp] theorem expireAt_trg (s : State) (i : SlotId) : (expireAt s i).trg = s.trg := by
  unfold expireAt; split <;> simp only [applyEffect_trg]
@[simp] theorem expireAt_offers (s : State) (i : SlotId) : (expireAt s i).offers = s.offers := by
  unfold expireAt; split <;> simp only [applyEffect_offers]
@[simp] theorem expireAt_ports (s : State) (i : SlotId) : (expireAt s i).ports = s.ports := by
  unfold expireAt; split <;> simp only [applyEffect_ports]
@[simp] theorem expireAt_executor (s : State) (i : SlotId) : (expireAt s i).executor = s.executor := by
  unfold expireAt; split <;> simp only [applyEffect_executor]
@[simp] theorem expireAt_lastServed (s : State) (i : SlotId) : (expireAt s i).lastServed = s.lastServed := by
  unfold expireAt; split <;> simp only [applyEffect_lastServed]
@[simp] theorem expireAt_control (s : State) (i : SlotId) : (expireAt s i).control = s.control := by
  unfold expireAt; split <;> simp only [applyEffect_control]
@[simp] theorem expireAt_quota (s : State) (i : SlotId) : (expireAt s i).quota = s.quota := by
  unfold expireAt; split <;> simp only [applyEffect_quota]
@[simp] theorem expireAt_purging (s : State) (i : SlotId) : (expireAt s i).purging = s.purging := by
  unfold expireAt; split <;> simp only [applyEffect_purging]
@[simp] theorem expireAt_purgeQueue (s : State) (i : SlotId) : (expireAt s i).purgeQueue = s.purgeQueue := by
  unfold expireAt; split <;> simp only [applyEffect_purgeQueue]
@[simp] theorem expireAt_cursor (s : State) (i : SlotId) : (expireAt s i).cursor = s.cursor := by
  unfold expireAt; split <;> simp only [applyEffect_cursor]
@[simp] theorem expireAt_freeDraws (s : State) (i : SlotId) : (expireAt s i).freeDraws = s.freeDraws := by
  unfold expireAt; split <;> simp only [applyEffect_freeDraws]
@[simp] theorem expireAt_pending (s : State) (i : SlotId) : (expireAt s i).pending = s.pending := by
  unfold expireAt; split <;> simp only [applyEffect_pending]

/-! ### expireAll -/

@[simp] theorem expireAll_freeList (s : State) (l : List SlotId) : (expireAll s l).freeList = s.freeList := by
  induction l generalizing s with
  | nil => rfl
  | cons o rest ih => rw [expireAll, ih, expireAt_freeList]
@[simp] theorem expireAll_owned (s : State) (l : List SlotId) : (expireAll s l).owned = s.owned := by
  induction l generalizing s with
  | nil => rfl
  | cons o rest ih => rw [expireAll, ih, expireAt_owned]
@[simp] theorem expireAll_timeBase (s : State) (l : List SlotId) : (expireAll s l).timeBase = s.timeBase := by
  induction l generalizing s with
  | nil => rfl
  | cons o rest ih => rw [expireAll, ih, expireAt_timeBase]
@[simp] theorem expireAll_tableTime (s : State) (l : List SlotId) : (expireAll s l).tableTime = s.tableTime := by
  induction l generalizing s with
  | nil => rfl
  | cons o rest ih => rw [expireAll, ih, expireAt_tableTime]
@[simp] theorem expireAll_trg (s : State) (l : List SlotId) : (expireAll s l).trg = s.trg := by
  induction l generalizing s with
  | nil => rfl
  | cons o rest ih => rw [expireAll, ih, expireAt_trg]
@[simp] theorem expireAll_offers (s : State) (l : List SlotId) : (expireAll s l).offers = s.offers := by
  induction l generalizing s with
  | nil => rfl
  | cons o rest ih => rw [expireAll, ih, expireAt_offers]
@[simp] theorem expireAll_ports (s : State) (l : List SlotId) : (expireAll s l).ports = s.ports := by
  induction l generalizing s with
  | nil => rfl
  | cons o rest ih => rw [expireAll, ih, expireAt_ports]
@[simp] theorem expireAll_executor (s : State) (l : List SlotId) : (expireAll s l).executor = s.executor := by
  induction l generalizing s with
  | nil => rfl
  | cons o rest ih => rw [expireAll, ih, expireAt_executor]
@[simp] theorem expireAll_lastServed (s : State) (l : List SlotId) : (expireAll s l).lastServed = s.lastServed := by
  induction l generalizing s with
  | nil => rfl
  | cons o rest ih => rw [expireAll, ih, expireAt_lastServed]
@[simp] theorem expireAll_control (s : State) (l : List SlotId) : (expireAll s l).control = s.control := by
  induction l generalizing s with
  | nil => rfl
  | cons o rest ih => rw [expireAll, ih, expireAt_control]
@[simp] theorem expireAll_quota (s : State) (l : List SlotId) : (expireAll s l).quota = s.quota := by
  induction l generalizing s with
  | nil => rfl
  | cons o rest ih => rw [expireAll, ih, expireAt_quota]
@[simp] theorem expireAll_purging (s : State) (l : List SlotId) : (expireAll s l).purging = s.purging := by
  induction l generalizing s with
  | nil => rfl
  | cons o rest ih => rw [expireAll, ih, expireAt_purging]
@[simp] theorem expireAll_purgeQueue (s : State) (l : List SlotId) : (expireAll s l).purgeQueue = s.purgeQueue := by
  induction l generalizing s with
  | nil => rfl
  | cons o rest ih => rw [expireAll, ih, expireAt_purgeQueue]
@[simp] theorem expireAll_cursor (s : State) (l : List SlotId) : (expireAll s l).cursor = s.cursor := by
  induction l generalizing s with
  | nil => rfl
  | cons o rest ih => rw [expireAll, ih, expireAt_cursor]
@[simp] theorem expireAll_freeDraws (s : State) (l : List SlotId) : (expireAll s l).freeDraws = s.freeDraws := by
  induction l generalizing s with
  | nil => rfl
  | cons o rest ih => rw [expireAll, ih, expireAt_freeDraws]
@[simp] theorem expireAll_pending (s : State) (l : List SlotId) : (expireAll s l).pending = s.pending := by
  induction l generalizing s with
  | nil => rfl
  | cons o rest ih => rw [expireAll, ih, expireAt_pending]

/-! ### deliver -/

@[simp] theorem deliver_freeList (b : Bool) (s : State) (i : SlotId) : (deliver b s i).freeList = s.freeList := by
  unfold deliver; split; · rfl
  · split <;> simp only [applyEffect_freeList]
@[simp] theorem deliver_owned (b : Bool) (s : State) (i : SlotId) : (deliver b s i).owned = s.owned := by
  unfold deliver; split; · rfl
  · split <;> simp only [applyEffect_owned]
@[simp] theorem deliver_timeBase (b : Bool) (s : State) (i : SlotId) : (deliver b s i).timeBase = s.timeBase := by
  unfold deliver; split; · rfl
  · split <;> simp only [applyEffect_timeBase]
@[simp] theorem deliver_tableTime (b : Bool) (s : State) (i : SlotId) : (deliver b s i).tableTime = s.tableTime := by
  unfold deliver; split; · rfl
  · split <;> simp only [applyEffect_tableTime]
@[simp] theorem deliver_trg (b : Bool) (s : State) (i : SlotId) : (deliver b s i).trg = s.trg := by
  unfold deliver; split; · rfl
  · split <;> simp only [applyEffect_trg]
@[simp] theorem deliver_offers (b : Bool) (s : State) (i : SlotId) : (deliver b s i).offers = s.offers := by
  unfold deliver; split; · rfl
  · split <;> simp only [applyEffect_offers]
@[simp] theorem deliver_ports (b : Bool) (s : State) (i : SlotId) : (deliver b s i).ports = s.ports := by
  unfold deliver; split; · rfl
  · split <;> simp only [applyEffect_ports]
@[simp] theorem deliver_executor (b : Bool) (s : State) (i : SlotId) : (deliver b s i).executor = s.executor := by
  unfold deliver; split; · rfl
  · split <;> simp only [applyEffect_executor]
@[simp] theorem deliver_lastServed (b : Bool) (s : State) (i : SlotId) : (deliver b s i).lastServed = s.lastServed := by
  unfold deliver; split; · rfl
  · split <;> simp only [applyEffect_lastServed]
@[simp] theorem deliver_control (b : Bool) (s : State) (i : SlotId) : (deliver b s i).control = s.control := by
  unfold deliver; split; · rfl
  · split <;> simp only [applyEffect_control]
@[simp] theorem deliver_quota (b : Bool) (s : State) (i : SlotId) : (deliver b s i).quota = s.quota := by
  unfold deliver; split; · rfl
  · split <;> simp only [applyEffect_quota]
@[simp] theorem deliver_purging (b : Bool) (s : State) (i : SlotId) : (deliver b s i).purging = s.purging := by
  unfold deliver; split; · rfl
  · split <;> simp only [applyEffect_purging]
@[simp] theorem deliver_purgeQueue (b : Bool) (s : State) (i : SlotId) : (deliver b s i).purgeQueue = s.purgeQueue := by
  unfold deliver; split; · rfl
  · split <;> simp only [applyEffect_purgeQueue]
@[simp] theorem deliver_cursor (b : Bool) (s : State) (i : SlotId) : (deliver b s i).cursor = s.cursor := by
  unfold deliver; split; · rfl
  · split <;> simp only [applyEffect_cursor]
@[simp] theorem deliver_freeDraws (b : Bool) (s : State) (i : SlotId) : (deliver b s i).freeDraws = s.freeDraws := by
  unfold deliver; split; · rfl
  · split <;> simp only [applyEffect_freeDraws]
@[simp] theorem deliver_pending (b : Bool) (s : State) (i : SlotId) : (deliver b s i).pending = s.pending := by
  unfold deliver; split; · rfl
  · split <;> simp only [applyEffect_pending]

/-! ### deliverAll -/

@[simp] theorem deliverAll_freeList (b : Bool) (s : State) (l : List SlotId) : (deliverAll b s l).freeList = s.freeList := by
  induction l generalizing s with
  | nil => rfl
  | cons o rest ih => rw [deliverAll, ih, deliver_freeList]
@[simp] theorem deliverAll_owned (b : Bool) (s : State) (l : List SlotId) : (deliverAll b s l).owned = s.owned := by
  induction l generalizing s with
  | nil => rfl
  | cons o rest ih => rw [deliverAll, ih, deliver_owned]
@[simp] theorem deliverAll_timeBase (b : Bool) (s : State) (l : List SlotId) : (deliverAll b s l).timeBase = s.timeBase := by
  induction l generalizing s with
  | nil => rfl
  | cons o rest ih => rw [deliverAll, ih, deliver_timeBase]
@[simp] theorem deliverAll_tableTime (b : Bool) (s : State) (l : List SlotId) : (deliverAll b s l).tableTime = s.tableTime := by
  induction l generalizing s with
  | nil => rfl
  | cons o rest ih => rw [deliverAll, ih, deliver_tableTime]
@[simp] theorem deliverAll_trg (b : Bool) (s : State) (l : List SlotId) : (deliverAll b s l).trg = s.trg := by
  induction l generalizing s with
  | nil => rfl
  | cons o rest ih => rw [deliverAll, ih, deliver_trg]
@[simp] theorem deliverAll_offers (b : Bool) (s : State) (l : List SlotId) : (deliverAll b s l).offers = s.offers := by
  induction l generalizing s with
  | nil => rfl
  | cons o rest ih => rw [deliverAll, ih, deliver_offers]
@[simp] theorem deliverAll_ports (b : Bool) (s : State) (l : List SlotId) : (deliverAll b s l).ports = s.ports := by
  induction l generalizing s with
  | nil => rfl
  | cons o rest ih => rw [deliverAll, ih, deliver_ports]
@[simp] theorem deliverAll_executor (b : Bool) (s : State) (l : List SlotId) : (deliverAll b s l).executor = s.executor := by
  induction l generalizing s with
  | nil => rfl
  | cons o rest ih => rw [deliverAll, ih, deliver_executor]
@[simp] theorem deliverAll_lastServed (b : Bool) (s : State) (l : List SlotId) : (deliverAll b s l).lastServed = s.lastServed := by
  induction l generalizing s with
  | nil => rfl
  | cons o rest ih => rw [deliverAll, ih, deliver_lastServed]
@[simp] theorem deliverAll_control (b : Bool) (s : State) (l : List SlotId) : (deliverAll b s l).control = s.control := by
  induction l generalizing s with
  | nil => rfl
  | cons o rest ih => rw [deliverAll, ih, deliver_control]
@[simp] theorem deliverAll_quota (b : Bool) (s : State) (l : List SlotId) : (deliverAll b s l).quota = s.quota := by
  induction l generalizing s with
  | nil => rfl
  | cons o rest ih => rw [deliverAll, ih, deliver_quota]
@[simp] theorem deliverAll_purging (b : Bool) (s : State) (l : List SlotId) : (deliverAll b s l).purging = s.purging := by
  induction l generalizing s with
  | nil => rfl
  | cons o rest ih => rw [deliverAll, ih, deliver_purging]
@[simp] theorem deliverAll_purgeQueue (b : Bool) (s : State) (l : List SlotId) : (deliverAll b s l).purgeQueue = s.purgeQueue := by
  induction l generalizing s with
  | nil => rfl
  | cons o rest ih => rw [deliverAll, ih, deliver_purgeQueue]
@[simp] theorem deliverAll_cursor (b : Bool) (s : State) (l : List SlotId) : (deliverAll b s l).cursor = s.cursor := by
  induction l generalizing s with
  | nil => rfl
  | cons o rest ih => rw [deliverAll, ih, deliver_cursor]
@[simp] theorem deliverAll_freeDraws (b : Bool) (s : State) (l : List SlotId) : (deliverAll b s l).freeDraws = s.freeDraws := by
  induction l generalizing s with
  | nil => rfl
  | cons o rest ih => rw [deliverAll, ih, deliver_freeDraws]
@[simp] theorem deliverAll_pending (b : Bool) (s : State) (l : List SlotId) : (deliverAll b s l).pending = s.pending := by
  induction l generalizing s with
  | nil => rfl
  | cons o rest ih => rw [deliverAll, ih, deliver_pending]

/-! ### examineSlot -/

@[simp] theorem examineSlot_timeBase (s : State) (c : Client) (i : SlotId) : (examineSlot s c i).timeBase = s.timeBase := by
  unfold examineSlot; split; · rfl
  · split <;> simp only [retireRecord_timeBase]
@[simp] theorem examineSlot_tableTime (s : State) (c : Client) (i : SlotId) : (examineSlot s c i).tableTime = s.tableTime := by
  unfold examineSlot; split; · rfl
  · split <;> simp only [retireRecord_tableTime]
@[simp] theorem examineSlot_ports (s : State) (c : Client) (i : SlotId) : (examineSlot s c i).ports = s.ports := by
  unfold examineSlot; split; · rfl
  · split <;> simp only [retireRecord_ports]
@[simp] theorem examineSlot_executor (s : State) (c : Client) (i : SlotId) : (examineSlot s c i).executor = s.executor := by
  unfold examineSlot; split; · rfl
  · split <;> simp only [retireRecord_executor]
@[simp] theorem examineSlot_lastServed (s : State) (c : Client) (i : SlotId) : (examineSlot s c i).lastServed = s.lastServed := by
  unfold examineSlot; split; · rfl
  · split <;> simp only [retireRecord_lastServed]
@[simp] theorem examineSlot_control (s : State) (c : Client) (i : SlotId) : (examineSlot s c i).control = s.control := by
  unfold examineSlot; split; · rfl
  · split <;> simp only [retireRecord_control]
@[simp] theorem examineSlot_quota (s : State) (c : Client) (i : SlotId) : (examineSlot s c i).quota = s.quota := by
  unfold examineSlot; split; · rfl
  · split <;> simp only [retireRecord_quota]
@[simp] theorem examineSlot_purging (s : State) (c : Client) (i : SlotId) : (examineSlot s c i).purging = s.purging := by
  unfold examineSlot; split; · rfl
  · split <;> simp only [retireRecord_purging]
@[simp] theorem examineSlot_purgeQueue (s : State) (c : Client) (i : SlotId) : (examineSlot s c i).purgeQueue = s.purgeQueue := by
  unfold examineSlot; split; · rfl
  · split <;> simp only [retireRecord_purgeQueue]
@[simp] theorem examineSlot_cursor (s : State) (c : Client) (i : SlotId) : (examineSlot s c i).cursor = s.cursor := by
  unfold examineSlot; split; · rfl
  · split <;> simp only [retireRecord_cursor]
@[simp] theorem examineSlot_freeDraws (s : State) (c : Client) (i : SlotId) : (examineSlot s c i).freeDraws = s.freeDraws := by
  unfold examineSlot; split; · rfl
  · split <;> simp only [retireRecord_freeDraws]
@[simp] theorem examineSlot_pending (s : State) (c : Client) (i : SlotId) : (examineSlot s c i).pending = s.pending := by
  unfold examineSlot; split; · rfl
  · split <;> simp only [retireRecord_pending]

/-! ### detect -/

@[simp] theorem detect_slots (s : State) (x : Input) (l : Level) : (detect s x l).slots = s.slots := rfl
@[simp] theorem detect_freeList (s : State) (x : Input) (l : Level) : (detect s x l).freeList = s.freeList := rfl
@[simp] theorem detect_owned (s : State) (x : Input) (l : Level) : (detect s x l).owned = s.owned := rfl
@[simp] theorem detect_timeBase (s : State) (x : Input) (l : Level) : (detect s x l).timeBase = s.timeBase := rfl
@[simp] theorem detect_tableTime (s : State) (x : Input) (l : Level) : (detect s x l).tableTime = s.tableTime := rfl
@[simp] theorem detect_schedule (s : State) (x : Input) (l : Level) : (detect s x l).schedule = s.schedule := rfl
@[simp] theorem detect_trg (s : State) (x : Input) (l : Level) : (detect s x l).trg = s.trg := rfl
@[simp] theorem detect_evt (s : State) (x : Input) (l : Level) : (detect s x l).evt = s.evt := rfl
@[simp] theorem detect_attn (s : State) (x : Input) (l : Level) : (detect s x l).attn = s.attn := rfl
@[simp] theorem detect_offers (s : State) (x : Input) (l : Level) : (detect s x l).offers = s.offers := rfl
@[simp] theorem detect_ports (s : State) (x : Input) (l : Level) : (detect s x l).ports = s.ports := rfl
@[simp] theorem detect_executor (s : State) (x : Input) (l : Level) : (detect s x l).executor = s.executor := rfl
@[simp] theorem detect_lastServed (s : State) (x : Input) (l : Level) : (detect s x l).lastServed = s.lastServed := rfl
@[simp] theorem detect_control (s : State) (x : Input) (l : Level) : (detect s x l).control = s.control := rfl
@[simp] theorem detect_quota (s : State) (x : Input) (l : Level) : (detect s x l).quota = s.quota := rfl
@[simp] theorem detect_purging (s : State) (x : Input) (l : Level) : (detect s x l).purging = s.purging := rfl
@[simp] theorem detect_purgeQueue (s : State) (x : Input) (l : Level) : (detect s x l).purgeQueue = s.purgeQueue := rfl
@[simp] theorem detect_cursor (s : State) (x : Input) (l : Level) : (detect s x l).cursor = s.cursor := rfl
@[simp] theorem detect_freeDraws (s : State) (x : Input) (l : Level) : (detect s x l).freeDraws = s.freeDraws := rfl
@[simp] theorem detect_pending (s : State) (x : Input) (l : Level) : (detect s x l).pending = s.pending ++ (detectedChange x l).toList := rfl

end Sys2Proof.Machine
end

