-- ==== Sys2Proof/Laws/Ops.lean ====
section
/-! SUPPORT. One lemma for each shared operation: all it can do, to be cited in place of unfolding it. -/

namespace Sys2Proof.Machine

/-! ### Pins and transfers -/

@[simp] theorem Signal.asserted_level (x : Signal) (b : Bool) : x.asserted (x.level b) = b := by
  cases x <;> cases b <;> rfl

theorem fetchCode_ne_submitCode : fetchCode ≠ submitCode := by decide

/-- The first byte chooses the kind of a transfer (Table 9-2, R179). -/
theorem transferKind_eq_submit {mosi : List Byte} : transferKind mosi = .submit ↔ mosi.head? = some submitCode := by
  cases mosi with
  | nil => simp [transferKind]
  | cons first rest =>
    by_cases h : first = submitCode
    · simp [transferKind, h]
    · by_cases h' : first = fetchCode <;> simp [transferKind, h, h', fetchCode_ne_submitCode]

theorem transferKind_eq_fetch {mosi : List Byte} : transferKind mosi = .fetch ↔ mosi.head? = some fetchCode := by
  cases mosi with
  | nil => simp [transferKind]
  | cons first rest =>
    by_cases h : first = submitCode
    · simp [transferKind, h, fetchCode_ne_submitCode.symm]
    · by_cases h' : first = fetchCode <;> simp [transferKind, h, h', fetchCode_ne_submitCode]

theorem transferKind_eq_ignored {mosi : List Byte} :
    transferKind mosi = .ignored ↔ mosi.head? ≠ some submitCode ∧ mosi.head? ≠ some fetchCode := by
  cases mosi with
  | nil => simp [transferKind]
  | cons first rest =>
    by_cases h : first = submitCode
    · simp [transferKind, h]
    · by_cases h' : first = fetchCode <;> simp [transferKind, h, h', fetchCode_ne_submitCode]

@[simp] theorem transferCommand_wellFormed (p : Client) (mosi : List Byte) :
    (transferCommand p mosi).wellFormed = true := by
  unfold transferCommand
  split <;> simp [Instr.wellFormed, *]

/-- SELn rises at the end of an ignored transfer: whatever the row and the bytes, the transfer ends and nothing else of the part
changes (R152, R165, R166). -/
theorem rises_of_ignored {s : State} {p : Client} {mosi : List Byte} {t : Transfer}
    (ht : (s.ports.get p).transfer = some t) (hi : t.ignored = true) :
    let closedPort := putPort s p (closed (s.ports.get p) t mosi.length [])
    submitRises s p mosi = closedPort ∧ fetchRises s p mosi = closedPort ∧ ignoredRises s p mosi = closedPort := by
  have hc : currentTransfer s p = t := by simp [currentTransfer, ht]
  simp [submitRises, fetchRises, ignoredRises, hc, hi]

/-! ### Reading records -/

theorem recordAt_eq_of_slots {s t : State} (h : t.slots = s.slots) (i : SlotId) : recordAt t i = recordAt s i := by
  rw [recordAt, recordAt, h]

theorem recordAt_putRecord (s : State) (i j : SlotId) (r : Rec) :
    recordAt (putRecord s i r) j = if j = i then some r else recordAt s j := by
  simp only [recordAt, putRecord_slots, Table.get_set]
  split <;> rfl

@[simp] theorem recordAt_putRecord_self (s : State) (i : SlotId) (r : Rec) : recordAt (putRecord s i r) i = some r := by
  rw [recordAt_putRecord, if_pos rfl]

theorem recordAt_putRecord_of_ne (s : State) {i j : SlotId} (r : Rec) (h : j ≠ i) :
    recordAt (putRecord s i r) j = recordAt s j := by
  rw [recordAt_putRecord, if_neg h]

/-- A change of one slot's record changes that record, if it is there, and no other. -/
theorem recordAt_mapRecord (s : State) (i j : SlotId) (f : Rec → Rec) :
    recordAt (mapRecord s i f) j = if j = i then (recordAt s i).map f else recordAt s j := by
  unfold mapRecord
  split
  · next h =>
    split
    · next hj => rw [hj, h]; rfl
    · rfl
  · next r h => rw [recordAt_putRecord, h]; rfl

theorem recordAt_freeSlot (s : State) (i j : SlotId) (c : Client) :
    recordAt (freeSlot s i c) j = if j = i then none else recordAt s j := by
  simp only [recordAt, freeSlot, Table.get_set]
  split <;> rfl

@[simp] theorem recordAt_driveBinding (s : State) (b : Option Line) (j : SlotId) :
    recordAt (driveBinding s b) j = recordAt s j := recordAt_eq_of_slots (driveBinding_slots s b) j

@[simp] theorem recordAt_reschedule (s : State) (i : SlotId) (o : SchedOp) (j : SlotId) :
    recordAt (reschedule s i o) j = recordAt s j := recordAt_eq_of_slots (reschedule_slots s i o) j

/-! ### Firings -/

/-- The record a firing leaves (R120). -/
def firedRecord (now : Time) (r : Rec) : Rec := if r.unacknowledged then furtherFiring now r else firstFiring now r

/-- A firing writes the reporting fields of the record and no other record. -/
theorem recordAt_fire (s : State) (i j : SlotId) :
    recordAt (fire s i) j = if j = i then (recordAt s i).map (firedRecord s.tableTime) else recordAt s j := by
  unfold fire
  split
  · next h =>
    split
    · next hj => rw [hj, h]; rfl
    · rfl
  · next r h =>
    by_cases hu : r.unacknowledged = true <;>
      simp only [hu, if_true, if_false, Bool.false_eq_true] <;>
      rw [recordAt_eq_of_slots (refreshAttn_slots _ _)] <;>
      [skip; rw [recordAt_eq_of_slots (joinSet_slots _ _ _)]] <;>
      rw [recordAt_putRecord, h] <;> simp [firedRecord, hu]

/-- An event decided by a mode writes one record: the effect's, and then that of its firing if it fires. -/
theorem recordAt_applyEffect (s : State) (i j : SlotId) (e : Effect) :
    recordAt (applyEffect s i e) j =
      if j = i then some (if e.fires then firedRecord s.tableTime e.record else e.record) else recordAt s j := by
  unfold applyEffect
  dsimp only
  split
  · rw [recordAt_fire, recordAt_reschedule, recordAt_driveBinding, recordAt_putRecord_self]
    split
    · simp
    · next hj => rw [recordAt_reschedule, recordAt_driveBinding, recordAt_putRecord_of_ne s e.record hj]
  · rw [recordAt_reschedule, recordAt_driveBinding, recordAt_putRecord]

/-- The schedule an event leaves is that of its schedule operation. -/
theorem applyEffect_schedule (s : State) (i : SlotId) (e : Effect) :
    (applyEffect s i e).schedule = (reschedule s i e.schedule).schedule := by
  unfold applyEffect
  dsimp only
  have h : ∀ t : State, t.schedule = s.schedule → t.tableTime = s.tableTime →
      (reschedule t i e.schedule).schedule = (reschedule s i e.schedule).schedule := by
    intro t h₁ h₂
    cases e.schedule <;> simp [reschedule, h₁, h₂]
  split
  · rw [fire_schedule]; exact h _ (by simp) (by simp)
  · exact h _ (by simp) (by simp)

/-! ### Offers -/

@[simp] theorem removeOffer_offers (s : State) (i : SlotId) :
    (removeOffer s i).offers = s.offers.filter fun o => decide (o.record ≠ i) := by
  simp [removeOffer]

@[simp] theorem endOffer_offers (s : State) (o : Offer) :
    (endOffer s o).offers = s.offers.filter fun x => decide (x.record ≠ o.record) := by
  simp [endOffer]

/-- The end of an offer removes one record's offer field and changes no other record. -/
theorem recordAt_endOffer (s : State) (o : Offer) (j : SlotId) :
    recordAt (endOffer s o) j =
      if j = o.record then (recordAt s j).map fun r => { r with offered := false } else recordAt s j := by
  have h : recordAt (endOffer s o) j = recordAt (removeOffer s o.record) j :=
    recordAt_eq_of_slots (refreshAttn_slots _ _) j
  rw [h, removeOffer, recordAt_mapRecord]
  split
  · next hj => rw [hj]; rfl
  · rfl

/-- Offers ended one after another leave those of other records. -/
theorem mem_endOffers_offers {s : State} {l : List Offer} {o : Offer} :
    o ∈ (endOffers s l).offers ↔ o ∈ s.offers ∧ o.record ∉ l.map Offer.record := by
  induction l generalizing s with
  | nil => simp [endOffers]
  | cons x rest ih =>
    rw [endOffers, ih, endOffer_offers]
    simp only [List.mem_filter, List.map_cons, List.mem_cons, decide_eq_true_eq]
    tauto

/-! ### Retirement and marking -/

/-- Retirement frees its slot and touches no record of another slot but through the end of the retired record's offer, which is
an offer of the retired record (R14). -/
theorem recordAt_retireOffer (s : State) (i j : SlotId) (h : j ≠ i) : recordAt (retireOffer s i) j = recordAt s j := by
  unfold retireOffer
  split
  · rfl
  · next o ho =>
    have hr : o.record = i := by simpa using List.find?_some ho
    rw [recordAt_endOffer, if_neg (by rw [hr]; exact h)]

/-- After a retirement the slot is FREE and every other record is as it was (R14). -/
theorem recordAt_retireRecord (s : State) (i j : SlotId) (r : Rec) :
    recordAt (retireRecord s i r) j = if j = i then none else recordAt s j := by
  unfold retireRecord
  dsimp only
  rw [recordAt_freeSlot]
  split
  · rfl
  · next h =>
    rw [recordAt_retireOffer _ _ _ h, recordAt_eq_of_slots (retireAttention_slots _ _ _),
      recordAt_eq_of_slots (retireTrigger_slots _ _ _), recordAt_eq_of_slots (retireOutput_slots _ _)]
    split <;> rfl

@[simp] theorem markClient_purging (s : State) (c : Client) : (markClient s c).purging = s.purging.set c true := by
  simp [markClient]

@[simp] theorem markClient_purgeQueue (s : State) (c : Client) : (markClient s c).purgeQueue = s.purgeQueue ++ [c] := by
  simp [markClient]

@[simp] theorem markClient_cursor (s : State) (c : Client) :
    (markClient s c).cursor = if s.purgeQueue = [] ∧ s.cursor = none then some 0 else s.cursor := by
  simp [markClient]

/-! ### Requests -/

@[simp] theorem post_executor (s : State) (r : Serving) (code : ResultCode) (payload : List Byte) :
    (post s r code payload).executor = none := by
  unfold post
  split <;> rfl

/-- A request command does one of three things: nothing, where no request of its kind is in service; a refusal, which changes
nothing but the posting; or the effects of its rule and the posting (R162, R163, R170). -/
theorem takeRequest_cases (s : State) (k : Kind) (act : State → Serving → Answer) :
    takeRequest s k act = s ∨
      ∃ r, s.executor = some r ∧ kindOf (bodyByte r.body 0) = some k ∧
        ((∃ code, takeRequest s k act = post s r code [0]) ∨
          ∃ code payload t, generalCheck s k r = none ∧ act s r = .accept code payload t ∧
            takeRequest s k act = post t r code payload) := by
  unfold takeRequest
  split
  · exact .inl rfl
  · next r hr =>
    split
    · next hk =>
      refine .inr ⟨r, hr, hk, ?_⟩
      unfold judge
      split
      · next code _ => exact .inl ⟨code, rfl⟩
      · next hg =>
        cases ha : act s r with
        | refuse code => exact .inl ⟨code, rfl⟩
        | accept code payload t => exact .inr ⟨code, payload, t, hg, rfl, rfl⟩
    · exact .inl rfl

/-- A request that passes steps 1 to 4 is judged by its own rule. -/
theorem takeRequest_of_general {s : State} {k : Kind} {act : State → Serving → Answer} {r : Serving}
    (hr : s.executor = some r) (hk : kindOf (bodyByte r.body 0) = some k) (hg : generalCheck s k r = none) :
    takeRequest s k act = respond s r (act s r) := by
  simp [takeRequest, hr, hk, judge, hg]

/-- An accepted request that only the owner may make names a live record of the requester (R6, R8). -/
theorem withOwned_accept {s : State} {c : Client} {h : Handle} {act : Rec → Answer} {code : ResultCode}
    {payload : List Byte} {t : State} (ha : withOwned s c h act = .accept code payload t) :
    ∃ r, liveRecord s h = some r ∧ r.owner = c ∧ act r = .accept code payload t := by
  unfold withOwned at ha
  split at ha
  · exact absurd ha (by simp)
  · next r hr =>
    split at ha
    · next ho => exact ⟨r, hr, ho, ha⟩
    · exact absurd ha (by simp)

/-- A live handle names the record of its slot. -/
theorem recordAt_of_liveRecord {s : State} {h : Handle} {r : Rec} (hl : liveRecord s h = some r) :
    recordAt s h.slot = some r := by
  unfold liveRecord at hl
  split at hl
  · exact hl
  · exact absurd hl (by simp)

@[simp] theorem kindOf_code (k : Kind) : kindOf k.code = some k := by cases k <;> rfl

end Sys2Proof.Machine
end

