-- ==== Sys2Proof/Laws/Claims.lean ====
section
/-! SUPPORT. The shared operations in the vocabulary of the statements: how a request's bytes read back, how a request that
passes the general checks is answered, and what an event leaves of a record, its line and the schedule. -/

namespace Sys2Proof.Claims

open Sys2Proof.Machine Sys2Proof.Safety

/-! ### Bytes -/

/-- Two bytes read back. -/
theorem byte2_reads {n : Nat} (h : n < 65536) :
    (BitVec.ofNat 8 (n / 256)).toNat * 256 + (BitVec.ofNat 8 n).toNat = n := by
  simp only [BitVec.toNat_ofNat]; omega

/-- Three bytes read back. -/
theorem byte3_reads {n : Nat} (h : n < 16777216) :
    ((BitVec.ofNat 8 (n / 65536)).toNat * 256 + (BitVec.ofNat 8 (n / 256)).toNat) * 256 + (BitVec.ofNat 8 n).toNat
      = n := by
  simp only [BitVec.toNat_ofNat]; omega

/-- Four bytes read back. -/
theorem byte4_reads {n : Nat} (h : n < 4294967296) :
    (((BitVec.ofNat 8 (n / 16777216)).toNat * 256 + (BitVec.ofNat 8 (n / 65536)).toNat) * 256
      + (BitVec.ofNat 8 (n / 256)).toNat) * 256 + (BitVec.ofNat 8 n).toNat = n := by
  simp only [BitVec.toNat_ofNat]; omega

theorem handle_value_lt (h : Handle) : h.value < 65536 := by
  have := h.generation.isLt
  have := h.slot.isLt
  unfold Handle.value
  omega

/-- A handle reads back from its 16-bit value (R180). -/
theorem handleOf_value (h : Handle) : handleOf h.value = h := by
  have hg := h.generation.isLt
  obtain ⟨⟨i, hi⟩, g⟩ := h
  simp only [handleOf, Handle.value, Handle.mk.injEq, Fin.mk.injEq] at *
  refine ⟨by omega, BitVec.eq_of_toNat_eq ?_⟩
  simp only [BitVec.toNat_ofNat]
  omega

/-- The handle that leads a request's arguments reads back. -/
theorem argHandle_first {k seq : Byte} (h : Handle) (rest : List Byte) :
    argHandle (k :: seq :: (handleBytes h ++ rest)) 2 = h := by
  have := byte2_reads (handle_value_lt h)
  simp only [argHandle, arg2, arg1, bodyByte, handleBytes, byte2, List.cons_append, List.nil_append,
    List.getD_cons_succ, List.getD_cons_zero]
  rw [this, handleOf_value]

/-- The handle of a request that carries nothing else. -/
theorem argHandle_only {k seq : Byte} (h : Handle) : argHandle (k :: seq :: handleBytes h) 2 = h := by
  rw [← List.append_nil (handleBytes h), argHandle_first]

/-! ### Answers -/

theorem post_eq_served {t : State} {r : Serving} {code : ResultCode} {payload : List Byte} (h : 2 ≤ r.body.length) :
    post t r code payload = served t r code payload := by
  obtain ⟨p, body, d⟩ := r
  match body, h with
  | a :: b :: rest, _ => cases d <;> simp [post, served, bodyByte]

theorem bodyLength_eq (k : Kind) (body : List Byte) : k.bodyLength body = 2 + argumentBytes body k := by
  cases k <;> simp [Kind.bodyLength, argumentBytes, arg1, bodyByte]
  omega

/-- What an answer makes of the state. -/
def answered (s : State) (r : Serving) : Answer → State
  | .refuse code => served s r code [0]
  | .accept code payload t => served t r code payload

/-- A request of the right length that passes steps 3 and 4 is judged by its own rule. -/
theorem takeRequest_inService {s : State} {r : Serving} {k : Kind} {args : List Byte} (h : InService s r k args)
    (hl : args.length = argumentBytes r.body k) (act : State → Serving → Answer) :
    takeRequest s k act = answered s r (act s r) := by
  obtain ⟨hr, ⟨seq, hb⟩, hc, hq⟩ := h
  have h2 : 2 ≤ r.body.length := by simp [hb]
  have hk : bodyByte r.body 0 = k.code := by simp [hb, bodyByte]
  have hlen : r.body.length = k.bodyLength r.body := by
    rw [bodyLength_eq, ← hl, hb]
    simp only [List.length_cons]
    omega
  have hg : generalCheck s k r = none := by
    have h₁ : ¬ (k.isControl = true ∧ s.control.get r.port = false) := fun ⟨a, b⟩ => by simp [hc a] at b
    have h₂ : ¬ (s.purging.get r.port = true ∧ k.purgeExempt = false) := fun ⟨a, b⟩ => by simp [hq b] at a
    simp [generalCheck, hlen, h₁, h₂]
  rw [takeRequest_of_general hr (by rw [hk, kindOf_code]) hg]
  cases act s r <;> simp [respond, answered, post_eq_served h2]

theorem names_iff_live {s : State} {h : Handle} {x : Rec} : Names s h x ↔ liveRecord s h = some x := by
  unfold Names liveRecord recordAt
  cases s.slots.get h.slot with
  | mk g x' =>
    constructor
    · intro e
      cases e
      simp
    · split <;> simp_all

theorem not_live_of_not_names {s : State} {h : Handle} (hn : ∀ x, ¬ Names s h x) : liveRecord s h = none := by
  cases hq : liveRecord s h with
  | none => rfl
  | some x => exact absurd (names_iff_live.2 hq) (hn x)

theorem recordAt_of_names {s : State} {h : Handle} {x : Rec} (hx : Names s h x) : recordAt s h.slot = some x :=
  recordAt_of_liveRecord (names_iff_live.1 hx)

/-- A request only the owner may make: STALE, NOT_OWNER, or what its rule makes of the record. -/
theorem ownerOnly_of_withOwned {c : Instr} {s : State} {r : Serving} {k : Kind} {args : List Byte} {h : Handle}
    {act : State → Serving → Answer} {f : Rec → Answer} (hs : InService s r k args)
    (hl : args.length = argumentBytes r.body k) (hc : exec c s = .next (takeRequest s k act))
    (ha : act s r = withOwned s r.port h f) :
    OwnerOnly c s r h ∧ ∀ x, Names s h x → x.owner = r.port → exec c s = .next (answered s r (f x)) := by
  refine ⟨⟨fun hx => ?_, fun x hx ho => ?_⟩, fun x hx ho => ?_⟩
  · refine hc.trans ?_
    rw [takeRequest_inService hs hl, ha, withOwned, not_live_of_not_names hx]
    rfl
  · refine hc.trans ?_
    rw [takeRequest_inService hs hl, ha, withOwned, names_iff_live.1 hx]
    simp only [if_neg ho]
    rfl
  · refine hc.trans ?_
    rw [takeRequest_inService hs hl, ha, withOwned, names_iff_live.1 hx]
    simp only [if_pos ho]

/-! ### Records, their lines and the schedule -/

theorem placeEntry_eq (now : Time) (e : Entry) (l : List Entry) :
    placeEntry now e l =
      l.takeWhile (fun x => decide (ahead now x.due ≤ ahead now e.due)) ++
        e :: l.dropWhile fun x => decide (ahead now x.due ≤ ahead now e.due) := by
  induction l with
  | nil => rfl
  | cons x rest ih => by_cases h : ahead now x.due ≤ ahead now e.due <;> simp [placeEntry, h, ih]

theorem joinGroup_eq (f : SlotId → Nat) (i : SlotId) (l : List SlotId) :
    joinGroup f i l =
      l.takeWhile (fun j => decide (f i ≤ f j)) ++ i :: l.dropWhile fun j => decide (f i ≤ f j) := by
  induction l with
  | nil => rfl
  | cons x rest ih =>
    by_cases h : f x < f i
    · simp [joinGroup, h, Nat.not_le.2 h]
    · simp [joinGroup, h, Nat.not_lt.1 h, ih]

/-- The schedule a schedule operation leaves. -/
def schedAfter (s : State) (i : SlotId) : SchedOp → List Entry
  | .keep => s.schedule
  | .remove => unscheduled s i
  | .place due => scheduled s i due

theorem reschedule_schedule (s : State) (i : SlotId) (op : SchedOp) :
    (reschedule s i op).schedule = schedAfter s i op := by
  cases op with
  | keep => rfl
  | remove => rfl
  | place due => exact placeEntry_eq _ _ _

/-- An event that does not fire: the record, its line and the schedule, and nothing else. The binding of `y` is that of `x`. -/
theorem applyEffect_changed {s : State} {i : SlotId} {x : Rec} (hl : OnItsLine s i x) (y : Rec) (op : SchedOp)
    (hb : y.outputBinding = x.outputBinding) :
    applyEffect s i { record := y, schedule := op, fires := false } = changed s i y (schedAfter s i op) := by
  have hdrive : driveBinding (putRecord s i y) y.outputBinding = changed s i y s.schedule := by
    unfold changed driveBinding follows slotsWith
    cases hk : y.outputBinding with
    | none => rfl
    | some k =>
      have := hl k (hb ▸ hk)
      simp [drive, putEvt, putRecord, boundLevel, this, recordAt]
  have hplace : ∀ op, reschedule (changed s i y s.schedule) i op = changed s i y (schedAfter s i op) := by
    intro op
    cases op with
    | keep => rfl
    | remove => rfl
    | place due =>
      simp only [reschedule, schedAfter, placeEntry_eq]
      rfl
  simp only [applyEffect, Bool.false_eq_true, if_false]
  rw [hdrive, hplace]

/-! ### Attention sets -/

theorem takeWhile_congr {α : Type} {p q : α → Bool} {l : List α} (h : ∀ a ∈ l, p a = q a) :
    l.takeWhile p = l.takeWhile q ∧ l.dropWhile p = l.dropWhile q := by
  induction l with
  | nil => exact ⟨rfl, rfl⟩
  | cons x rest ih =>
    have hr := ih fun a ha => h a (List.mem_cons_of_mem x ha)
    have hx := h x List.mem_cons_self
    rw [List.takeWhile_cons, List.takeWhile_cons, List.dropWhile_cons, List.dropWhile_cons, hx, hr.1, hr.2]
    exact ⟨rfl, rfl⟩

/-- A slot joins the tail of its group the same in any state that holds its record and the other records of `s`. -/
theorem joinGroup_grouped {s u : State} {i : SlotId} {y : Rec} {l : List SlotId} (hi : recordAt u i = some y)
    (ho : ∀ j, j ≠ i → recordAt u j = recordAt s j) (hl : i ∉ l) :
    joinGroup (priorityAt u) i l = grouped s y.priority.val i l := by
  have hp : priorityAt u i = y.priority.val := by simp [priorityAt, hi]
  have h := takeWhile_congr (l := l) (p := fun j => decide (priorityAt u i ≤ priorityAt u j))
    (q := fun j => decide (y.priority.val ≤ priorityAt s j)) fun j hj => by
      have hne : j ≠ i := fun e => hl (e ▸ hj)
      have hj' : priorityAt u j = priorityAt s j := by rw [priorityAt, priorityAt, ho j hne]
      rw [hp, hj']
  rw [joinGroup_eq, h.1, h.2]
  rfl

@[simp] theorem withSet_self (s : State) (c : Client) : withSet s c (s.attn.get c).set = s.attn := s.attn.set_get c

theorem refreshAttn_eq_relined (s : State) (c : Client) : refreshAttn s c = relined s c := rfl

/-! ### Durations and levels -/

theorem ahead_after (t : Time) {d : Nat} (h : d < 4294967296) : ahead t (after t d) = d := by
  have : t + BitVec.ofNat 32 d - t = BitVec.ofNat 32 d := by rw [BitVec.add_comm, BitVec.add_sub_cancel]
  rw [ahead, after, this, BitVec.toNat_ofNat]
  exact Nat.mod_eq_of_lt h

theorem setLevel_eq {x : Rec} (h : x.outputLevel.isSome = x.outputBinding.isSome) (l : OutLevel) :
    setLevel x l = { x with outputLevel := heldLevel x l } := by
  unfold setLevel heldLevel
  cases hb : x.outputBinding <;> simp [hb] at h ⊢
  cases x
  simp_all

end Sys2Proof.Claims
end

