-- ==== Sys2Proof/Tests/Slice0.lean ====
section
/-! SUPPORT. Tests. First the checks of WellFormed, each on a term it refuses. Then single steps whose expected results are
the spec's own worked sequences and examples. Last, for each statement with hypotheses, a witness: a concrete state and operands
that meet them, for each of its clauses. -/

namespace Sys2Proof.Tests

-- One proof at a time: a kernel evaluation waits for every proof before it, and many waiting at once exhaust the thread stacks.
set_option Elab.async false

open Sys2Proof.Machine Sys2Proof.Safety Sys2Proof.Claims

/-! ### Well-formed commands -/

/-- The first byte chooses the kind of a transfer (Table 9-2, R179): each row refuses another's code. -/
theorem test_wellFormed_refuses_submit_of_fetch_code : (Instr.submit 0 (.rises [0x5A, 0x04])).wellFormed = false := by decide

theorem test_wellFormed_refuses_fetch_of_submit_code : (Instr.fetch 0 (.rises [0xA5])).wellFormed = false := by decide

theorem test_wellFormed_refuses_ignored_submit : (Instr.ignoredTransfer 1 (.rises [0xA5, 0x04])).wellFormed = false := by
  decide

theorem test_wellFormed_refuses_ignored_fetch : (Instr.ignoredTransfer 1 (.rises [0x5A])).wellFormed = false := by decide

/-- A transfer that ends before its first byte is complete is ignored (R152). -/
theorem test_wellFormed_takes_empty_transfer : (Instr.ignoredTransfer 1 (.rises [])).wellFormed = true := by decide

/-! ### Pins (R1, Table 0-1) and the codes of a transfer (R179) -/

/-- PRSTn and RESET are asserted low, and HOLDIN high. -/
theorem test_detected_changes :
    detectedChange (.prst 2) .low = some (.portReset 2) ∧ detectedChange (.prst 2) .high = some (.portResetRelease 2) ∧
    detectedChange .holdin .high = some .holdinAsserts ∧ detectedChange .holdin .low = some .holdinDeasserts ∧
    detectedChange (.trg 7) .low = some (.triggerEvent 7 .low) ∧
    detectedChange (.reset quietPins) .low = none ∧ detectedChange (.reset quietPins) .high = some (.reset quietPins) := by
  decide

/-- 0xA5 is a SUBMIT, 0x5A a FETCH, and any other first byte an ignored transfer. -/
theorem test_transfer_codes :
    transferCommand 1 [0xA5, 3] = .submit 1 (.rises [0xA5, 3]) ∧ transferCommand 1 [0x5A] = .fetch 1 (.rises [0x5A]) ∧
    transferCommand 1 [0x5B, 0xA5] = .ignoredTransfer 1 (.rises [0x5B, 0xA5]) ∧
    firstByteCommand 1 0x5A = some (.fetchCodeRecognised 1) ∧ firstByteCommand 1 0xA5 = none := by
  decide

/-- HOLDIN high when RESET deasserts gives the line hold, and PRST1 low the state RESET (R40, R168). -/
theorem test_reset_reads_the_pins :
    (let s := State.afterReset { quietPins with holdin := .high, prst := quietPins.prst.set 1 .low };
      s.timeBase.lineHold = true ∧ (s.ports.get 1).state = .reset ∧ (s.ports.get 2).state = .ready) ∧
    State.reset.timeBase.lineHold = false := by
  decide

/-! ### Frames (R180, R184) -/

/-- R184: over the digits 1 to 9 the CRC is 0xF4. -/
theorem test_crc_of_the_digits : crc [0x31, 0x32, 0x33, 0x34, 0x35, 0x36, 0x37, 0x38, 0x39] = 0xF4 := by decide +kernel

/-- R180: the ARM of 37:4 with sequence value 7. -/
theorem test_frame_of_arm : frame [0x03, 0x07, 0x20, 0x25] = [0x04, 0x03, 0x07, 0x20, 0x25, 0xF6] := by decide +kernel

/-- R180: handle 37:4 is sent as 0x20 then 0x25. -/
theorem test_handle_bytes : handleBytes { slot := 37, generation := 4 } = [0x20, 0x25] := by decide

/-! ### States for single steps -/

/-- An IDLE record of client 1. -/
def plain : Rec :=
  { state := .idle, owner := 1, mode := .single, period := 50, staged := none, dueTime := none, remaining := none,
    phase := none, outputLevel := none, outputBinding := none, triggerBinding := none, priority := 1, tag := 0,
    share := false, unacknowledged := false, firstFire := none, overrun := 0, lastFire := none, offered := false }

/-- Time RUNNING at `now` with one advance owed, the record `x` in slot `i` at generation `g`, and the schedule `l`. -/
def holding (now : Time) (i : SlotId) (g : BitVec 5) (x : Rec) (l : List Entry) : State :=
  { State.reset with
    slots := State.reset.slots.set i { generation := g, record := some x }
    tableTime := now
    timeBase := { State.reset.timeBase with stopped := false, owed := 1 }
    schedule := l }

/-- The state with a request of kind `k` from port `p` in service, sequence value 7. -/
def request (p : Client) (k : Kind) (args : List Byte) : Serving :=
  { port := p, body := k.code :: 7 :: args, discard := false }

def ask (s : State) (p : Client) (k : Kind) (args : List Byte) : State := { s with executor := some (request p k args) }

/-- The command answers a next state, of which `p` holds. -/
def gives (c : Instr) (s : State) (p : State → Bool) : Bool :=
  match exec c s with
  | .next t => p t
  | .fault _ => false
  | .refused _ => false

/-- The state, due time and remaining count of the record in a slot. -/
def timing (i : SlotId) (s : State) : Option (RecState × Option Time × Option Nat) :=
  (recordAt s i).map fun x => (x.state, x.dueTime, x.remaining)

/-- The last response posted to a port. -/
def reply (p : Client) (s : State) : Option (List Byte) := (s.ports.get p).outbound.getLast?

/-! ### Worked sequences: record modes (Tables 4-3 to 4-6) -/

/-- Record 402:6 of Table 4-3, with its line TRG4 at `level` and its output EVT9. -/
def gatedSingle (now : Time) (level : Level) (x : Rec) (l : List Entry) : State :=
  let s := holding now 402 6 { x with outputBinding := some 9, triggerBinding := some 4 } l
  { s with
    trg := s.trg.set 4 { polarity := .high, level := level, listeners := [402] }
    evt := s.evt.set 9 { idle := .low, bound := some 402, driven := drivenLevel .low x.outputLevel } }

theorem test_arm_gated_single_suspends :
    gives .arm (ask (gatedSingle 1000 .low { plain with outputLevel := some .inactive } []) 1 .arm
      (handleBytes { slot := 402, generation := 6 })) (fun t =>
        timing 402 t == some (.suspended, none, some 50) &&
        reply 1 t == some [0x03, 7, 0x00, 2, 3, 0, 0, 50]) = true := by
  decide +kernel

theorem test_deassert_one_tick_ahead_leaves_remaining_1 :
    gives (.triggerEvent 4 .low)
      (gatedSingle 1059 .high { plain with state := .armed, dueTime := some 1060, outputLevel := some .inactive }
        [{ slot := 402, due := 1060 }]) (fun t =>
        timing 402 t == some (.suspended, none, some 1) &&
        t.schedule == []) = true := by
  decide +kernel

theorem test_assert_resumes_remaining :
    gives (.triggerEvent 4 .high)
      (gatedSingle 1100 .low { plain with state := .suspended, remaining := some 1, outputLevel := some .inactive }
        []) (fun t =>
        timing 402 t == some (.armed, some 1101, none) &&
        t.schedule == [{ slot := 402, due := 1101 }]) = true := by
  decide +kernel

theorem test_advance_expires_single :
    gives .advance
      (gatedSingle 1100 .high { plain with state := .armed, dueTime := some 1101, outputLevel := some .inactive }
        [{ slot := 402, due := 1101 }]) (fun t =>
        timing 402 t == some (.fired, none, none) &&
        (t.evt.get 9).driven == .high &&
        (t.attn.get 1).set == [402] &&
        attnPin t 1 == .low) = true := by
  decide +kernel

theorem test_disarm_fired_is_fired_before :
    gives .disarm (ask (gatedSingle 1120 .low { plain with state := .fired, outputLevel := some .active } []) 1 .disarm
      (handleBytes { slot := 402, generation := 6 })) (fun t =>
        timing 402 t == some (.idle, none, none) &&
        (t.evt.get 9).driven == .low &&
        reply 1 t == some [0x04, 7, 0x01, 5]) = true := by
  decide +kernel

/-- Table 4-4, the advance to 113: the HIGH half of record 1500:0 ends and the staged 4 is applied. -/
theorem test_square_high_end_applies_staged :
    gives .advance
      (holding 112 1500 0
        { plain with
          owner := 0, mode := .square, period := 5, staged := some 4, state := .armed, dueTime := some 113,
          phase := some .high, unacknowledged := true, firstFire := some 105, overrun := 1, lastFire := some 110 }
        [{ slot := 1500, due := 113 }]) (fun t =>
        timing 1500 t == some (.armed, some 115, none) &&
        ((recordAt t 1500).map fun x => (x.period, x.staged, x.phase, x.overrun)) ==
          some (4, none, some .low, 1)) = true := by
  decide +kernel

/-- Table 4-4, the advance to 110: a LOW half ends, the record fires, and the overrun is counted. -/
theorem test_square_low_end_fires :
    gives .advance
      (holding 109 1500 0
        { plain with
          owner := 0, mode := .square, period := 5, state := .armed, dueTime := some 110, phase := some .low,
          unacknowledged := true, firstFire := some 105, overrun := 0, lastFire := some 105 }
        [{ slot := 1500, due := 110 }]) (fun t =>
        timing 1500 t == some (.armed, some 113, none) &&
        ((recordAt t 1500).map fun x => (x.phase, x.overrun, x.firstFire, x.lastFire)) ==
          some (some .high, 1, some 105, some 110)) = true := by
  decide +kernel

/-- Table 4-5: a DELAYED record is retriggered at 211. -/
theorem test_delayed_retrigger :
    gives (.triggerEvent 2 .high)
      (let s :=
        holding 211 700 3
          { plain with
            owner := 2, mode := .delayed, period := 10, state := .armed, dueTime := some 215,
            triggerBinding := some 2 }
          [{ slot := 700, due := 215 }]
      { s with trg := s.trg.set 2 { polarity := .high, level := .low, listeners := [700] } }) (fun t =>
        timing 700 t == (some (.armed, some 221, none))) = true := by
  decide +kernel

/-- Table 4-6: a feed at 1250 moves the WATCH record behind a record already due then. -/
theorem test_watch_feed_moves_behind :
    gives (.triggerEvent 11 .low)
      (let s :=
        holding 1250 1033 0
          { plain with mode := .watch, period := 400, state := .armed, dueTime := some 1400, triggerBinding := some 11 }
          [{ slot := 1033, due := 1400 }, { slot := 1034, due := 1650 }]
      { s with trg := s.trg.set 11 { polarity := .low, level := .high, listeners := [1033] } }) (fun t =>
        t.schedule == [{ slot := 1034, due := 1650 }, { slot := 1033, due := 1650 }]) = true := by
  decide +kernel

/-- Table 5-5, at 306: a second staging REVISE reports the displaced 6. -/
theorem test_revise_reports_displaced :
    gives .revise
      (ask
        (holding 306 640 1
          { plain with
            owner := 0, mode := .square, period := 8, staged := some 6, state := .armed, dueTime := some 308,
            phase := some .low }
          [{ slot := 640, due := 308 }])
        0 .revise (handleBytes { slot := 640, generation := 1 } ++ byte3 10)) (fun t =>
        reply 0 t == (some [0x05, 7, 0x00, 3, 1, 0, 0, 8, 2, 0, 0, 10, 0, 0, 6])) = true := by
  decide +kernel

/-! ### Worked sequences: records, time, attention, offers, purge and ports -/

/-- Table 1-3: RETIRE of 37:4, bound to EVT5, listening on TRG3 and offered to client 2. -/
theorem test_retire_bound_fired_offered :
    gives .retire
      (ask
        (let s :=
          holding 20500 37 4
            { plain with
              state := .fired, priority := 2, outputBinding := some 5, outputLevel := some .active,
              triggerBinding := some 3, unacknowledged := true, firstFire := some 20500, lastFire := some 20500,
              offered := true }
            []
        { s with
          freeList := [210, 211]
          owned := (s.owned.set 1 310).set 2 95
          trg := s.trg.set 3 { polarity := .high, level := .high, listeners := [12, 37, 900] }
          evt := s.evt.set 5 { idle := .low, bound := some 37, driven := .high }
          attn := (s.attn.set 1 { set := [37], mask := 0, line := true }).set 2 { set := [], mask := 0, line := true }
          offers := [{ record := 37, giver := 1, receiver := 2, lapse := 30000 }] })
        1 .retire (handleBytes { slot := 37, generation := 4 })) (fun t =>
        t.slots.get 37 == { generation := 5, record := none } &&
        t.freeList == [210, 211, 37] &&
        t.owned.get 1 == 309 &&
        t.evt.get 5 == { idle := .low, bound := none, driven := .low } &&
        (t.trg.get 3).listeners == [12, 900] &&
        t.offers == [] &&
        attnPin t 1 == .high &&
        attnPin t 2 == .high &&
        reply 1 t == some [0x02, 7, 0x00, 1, 0]) = true := by
  decide +kernel

/-- Table 2-3: the rebase across the wrap. -/
theorem test_start_time_rebases :
    gives .startTime
      (ask
        (let s := holding 70000 5 0 { plain with state := .armed, dueTime := some 70010 } [{ slot := 5, due := 70010 }]
        { s with
          timeBase := { State.reset.timeBase with prescaler := 40, phase := 17 }
          offers := [{ record := 41, giver := 1, receiver := 2, lapse := 70500 }] })
        0 .startTime (timeBytes 4294967290 ++ byte3 400)) (fun t =>
        t.tableTime == 4294967290 &&
        timing 5 t == some (.armed, some 4, none) &&
        t.schedule == [{ slot := 5, due := 4 }] &&
        t.offers.map Offer.lapse == [494] &&
        t.timeBase.prescaler == 400 &&
        t.timeBase.phase == 0 &&
        tbState t.timeBase == .running) = true := by
  decide +kernel

/-- Table 2-4: the release under SLIP discards the 180 owed advances. -/
theorem test_release_under_slip :
    gives .holdinDeasserts
      { State.reset with
        timeBase :=
          { State.reset.timeBase with
            stopped := false, lineHold := true, prescaler := 1000, owed := 180, policy := .slip } } (fun t =>
        t.timeBase.owed == 0 &&
        tbState t.timeBase == .running &&
        t.timeBase.slipped == false) = true := by
  decide +kernel

/-- Table 7-4, at 1017: COLLECT of 1 returns 1201:0, and the line falls under mask level 2. -/
theorem test_collect_one :
    gives .collect
      (ask
        (let s :=
          holding 1017 1200 2
            { plain with
              owner := 3, mode := .cyclic, period := 4, tag := 17, state := .armed, dueTime := some 1020,
              unacknowledged := true, firstFire := some 1004, overrun := 3, lastFire := some 1016 }
            [{ slot := 1200, due := 1020 }]
        let x : Rec :=
          { plain with
            owner := 3, priority := 3, tag := 18, state := .fired, unacknowledged := true, firstFire := some 1015,
            lastFire := some 1015 }
        { s with
          slots := s.slots.set 1201 { generation := 0, record := some x }
          attn := s.attn.set 3 { set := [1201, 1200], mask := 2, line := true } })
        3 .collect (byte1 1)) (fun t =>
        (t.attn.get 3).set == [1200] &&
        attnPin t 3 == .high &&
        reply 3 t == some ([0x10, 7, 0x00, 1, 0x04, 0xB1, 0, 18, 3] ++ timeBytes 1015 ++ timeBytes 1015 ++ [0, 0, 1, 0])) = true := by
  decide +kernel

/-- Table 8-3: ACCEPT of 812:3 by client 2. -/
theorem test_accept_hands_over :
    gives .accept
      (ask
        (let s :=
          holding 4049 812 3
            { plain with
              mode := .cyclic, period := 25, priority := 2, tag := 40, share := true, state := .armed,
              dueTime := some 4050, unacknowledged := true, firstFire := some 4025, lastFire := some 4025,
              offered := true }
            [{ slot := 812, due := 4050 }]
        { s with
          owned := (s.owned.set 1 40).set 2 12
          attn := (s.attn.set 1 { set := [812], mask := 0, line := true }).set 2 { set := [], mask := 0, line := true }
          offers := [{ record := 812, giver := 1, receiver := 2, lapse := 4050 }] })
        2 .accept (handleBytes { slot := 812, generation := 3 })) (fun t =>
        t.offers == [] &&
        (t.attn.get 1).set == [] &&
        (t.attn.get 2).set == [812] &&
        attnPin t 1 == .high &&
        attnPin t 2 == .low &&
        t.owned.get 1 == 39 &&
        t.owned.get 2 == 13 &&
        reply 2 t == some [0x19, 7, 0x00, 0, 0x1B, 0x2C, 1, 1, 2, 0, 40, 2, 1, 1, 0, 0, 13]) = true := by
  decide +kernel

/-- Table 11-2: the assertion of PRST1 marks client 1 and sets its mask to 0. -/
theorem test_port_reset_marks_the_client :
    gives (.portReset 1)
      (let s :=
        holding 6000 40 2
          { plain with
            mode := .cyclic, period := 100, state := .armed, dueTime := some 6050, unacknowledged := true,
            firstFire := some 5950, lastFire := some 5950 }
          [{ slot := 40, due := 6050 }]
      { s with
        control := s.control.set 1 true
        attn :=
          (s.attn.set 1 { set := [40], mask := 2, line := false }).set 3 { set := [], mask := 0, line := true }
        offers := [{ record := 1500, giver := 1, receiver := 3, lapse := 6200 },
                   { record := 88, giver := 2, receiver := 1, lapse := 6100 }] }) (fun t =>
        t.purgeQueue == [1] &&
        t.cursor == some 0 &&
        t.offers == [] &&
        t.control.get 1 == false &&
        (t.attn.get 1).mask == 0 &&
        attnPin t 1 == .low &&
        attnPin t 3 == .high &&
        (t.ports.get 1).state == .reset) = true := by
  decide +kernel

/-- Table 9-6: SUBMIT C on a port whose reservation count is 8 is refused. -/
theorem test_submit_at_the_reservation_limit :
    gives (.submit 3 (.rises (0xA5 :: frame [0x20, 3, 0])))
      { State.reset with
        ports :=
          State.reset.ports.set 3
            { State.reset.ports.get 3 with
              inbound := [[0x20, 1, 0], [0x20, 2, 0]]
              outbound := List.replicate 6 [0x20, 0, 0, 0]
              transfer := some { status := some (0x06, 0), ended := false, chosen := none } } } (fun t =>
        (t.ports.get 3).inbound.length == 2 &&
        (t.ports.get 3).refused == true) = true := by
  decide +kernel

/-- Table 9-5, the last row: a FETCH of an empty queue sends the status and the zero length byte. -/
theorem test_fetch_of_an_empty_queue :
    gives (.fetch 2 (.rises [0x5A, 0, 0, 0]))
      { State.reset with
        ports :=
          State.reset.ports.set 2
            { State.reset.ports.get 2 with
              transfer := some { status := some (0x40, 0), ended := false, chosen := some none } } } (fun t =>
        (t.ports.get 2).shifted == [some 0x40, some 0, some 0, some 0xFF]) = true := by
  decide +kernel

/-! ### A state that meets every law -/

/-- The one record of `demo`: ARMED, bound to EVT2 and TRG3, unacknowledged with an overrun, and offered. -/
def demoRec : Rec :=
  { plain with
    state := .armed, period := 100, dueTime := some 1100, outputLevel := some .inactive, outputBinding := some 2,
    triggerBinding := some 3, priority := 2, share := true, unacknowledged := true, firstFire := some 900, overrun := 1,
    lastFire := some 950, offered := true }

/-- Time RUNNING at 1000 with 5 advances owed, the record 0:3 of client 1 offered to client 2, client 3 PURGING with its mask level 4
and the scan at slot 5, a frame and a response waiting on port 2, and the RETIRE of 0:3 in service. -/
def demo : State :=
  { State.reset with
    slots := State.reset.slots.set 0 { generation := 3, record := some demoRec }
    freeList := allSlots.tail
    owned := State.reset.owned.set 1 1
    timeBase := { State.reset.timeBase with stopped := false, prescaler := 10, phase := 9, owed := 5 }
    tableTime := 1000
    schedule := [{ slot := 0, due := 1100 }]
    trg := State.reset.trg.set 3 { polarity := .high, level := .high, listeners := [0] }
    evt := State.reset.evt.set 2 { idle := .low, bound := some 0, driven := .low }
    attn :=
      ((State.reset.attn.set 1 { set := [0], mask := 0, line := true }).set 2
        { set := [], mask := 0, line := true }).set 3 { set := [], mask := 4, line := false }
    offers := [{ record := 0, giver := 1, receiver := 2, lapse := 1010 }]
    ports :=
      State.reset.ports.set 2
        { State.reset.ports.get 2 with
          inbound := [[0x20, 1, 0]], outbound := [[0x20, 0, 0, 0]], malformed := true }
    executor := some (request 1 .retire (handleBytes { slot := 0, generation := 3 }))
    purging := State.reset.purging.set 3 true
    purgeQueue := [3]
    cursor := some 5
    pending := [.retire] }

theorem demo_recordAt (i : SlotId) : recordAt demo i = if i = 0 then some demoRec else none := by
  simp only [recordAt, demo, Table.get_set]
  split
  · rfl
  · simp [State.reset, State.afterReset]

theorem mem_tail_finRange (n : Nat) (i : Fin (n + 1)) : i ∈ (List.finRange (n + 1)).tail ↔ i ≠ 0 := by
  simp [List.finRange_succ, Fin.exists_succ_eq]

theorem mem_tail_allSlots (i : SlotId) : i ∈ allSlots.tail ↔ i ≠ 0 := by
  rw [allSlots]
  exact mem_tail_finRange 2047 i

theorem nodup_tail_allSlots : allSlots.tail.Nodup := by
  rw [allSlots]
  exact (List.nodup_finRange _).tail

theorem demo_freeList : demo.freeList = allSlots.tail := by simp only [demo]

/-- A record meets the record law, by evaluation. -/
def recordCheck (r : Rec) : Bool :=
  let inRange := fun p => decide (1 ≤ p ∧ p ≤ Config.maxTicks) && !periodTooShort r.mode p
  modeTakes r.mode r.state && inRange r.period && r.staged.all (fun p => inRange p && mayStage r.mode r.state) &&
    decide (r.dueTime.isSome = true ↔ r.state = .armed) &&
    decide (r.remaining.isSome = true ↔ r.state = .suspended ∧ r.mode = .single) &&
    r.remaining.all (fun n => decide (1 ≤ n ∧ n ≤ Config.maxTicks)) &&
    decide (r.phase.isSome = true ↔ r.state = .armed ∧ r.mode = .square) &&
    decide (r.outputLevel.isSome = r.outputBinding.isSome) &&
    decide (r.mode = .delayed → r.state ≠ .idle → r.triggerBinding.isSome = true) &&
    decide (r.firstFire.isSome = r.unacknowledged) && decide (r.overrun ≤ Config.maxOverrun) &&
    decide (r.unacknowledged = false → r.overrun = 0) &&
    decide (r.unacknowledged = true → r.lastFire.isSome = true)

theorem recordLaw_of_check {r : Rec} (h : recordCheck r = true) : RecordLaw r := by
  simp only [recordCheck, Bool.and_eq_true, decide_eq_true_eq, Bool.not_eq_true', Option.all_eq_true, RecordLaw,
    PeriodInRange] at h ⊢
  obtain ⟨⟨⟨⟨⟨⟨⟨⟨⟨⟨⟨⟨a, b⟩, c⟩, d⟩, e⟩, f⟩, g⟩, i⟩, j⟩, k⟩, l⟩, m⟩, n⟩ := h
  refine ⟨a, ⟨b.1.1, b.1.2, b.2⟩, fun p hp => ?_, d, e, fun p hp => f p hp, g, i, j, k, l, m, n⟩
  have := c p hp
  exact ⟨⟨this.1.1.1, this.1.1.2, this.1.2⟩, this.2⟩

theorem demo_accountLaw : AccountLaw demo := by
  refine ⟨?_, fun i => ?_, fun c => ?_⟩
  · exact demo_freeList ▸ nodup_tail_allSlots
  · rw [demo_recordAt]
    rw [demo_freeList, mem_tail_allSlots]
    by_cases hi : i = 0 <;> simp [hi]
  · have h : liveCount demo c = (List.finRange 2048).countP fun i => decide (i = 0 ∧ c = 1) := by
      refine List.countP_congr fun i _ => ?_
      rw [demo_recordAt]
      by_cases hi : i = 0 <;> simp [hi, demoRec, plain, eq_comm]
    rw [h]
    have h0 := List.count_eq_one_of_mem (List.nodup_finRange 2048) (List.mem_finRange (0 : Fin 2048))
    by_cases hc : c = 1
    · subst hc
      simp only [and_true]
      exact h0.symm
    · simp only [hc, and_false, decide_false, List.countP_false]
      show (State.reset.owned.set 1 1).get c = 0
      rw [Table.get_set_of_ne _ _ hc]
      simp [State.reset, State.afterReset]

theorem demo_freeSlotsLaw : FreeSlotsLaw demo :=
  ⟨demo_accountLaw.1, fun i hi => (demo_accountLaw.2.1 i).1 hi⟩

theorem demo_timingLaw : TimingLaw demo := by
  refine ⟨demo_freeSlotsLaw, fun i r h => ?_, ?_, ?_, fun i r due h hd => ?_, ?_, ?_⟩
  · rw [demo_recordAt] at h
    split at h
    · cases h
      refine ⟨recordLaw_of_check (by decide), fun l hl _ => ?_⟩
      cases hl
      rfl
    · cases h
  · exact List.nodup_singleton _
  · intro e he
    cases List.mem_singleton.1 he
    rw [demo_recordAt]
    rfl
  · rw [demo_recordAt] at h
    split at h
    · next hi =>
      cases h
      cases hd
      cases hi
      exact List.mem_singleton.2 rfl
    · cases h
  · intro e he
    cases List.mem_singleton.1 he
    decide +kernel
  · exact List.pairwise_singleton _ _

theorem demo_lineLaw : LineLaw demo := by
  have he : ∀ k, demo.evt.get k = if k = 2 then ⟨.low, some 0, .low⟩ else ⟨.low, none, .low⟩ := by
    intro k
    simp [demo, State.reset, State.afterReset, Table.get_set]
  have ht : ∀ k, demo.trg.get k = if k = 3 then ⟨.high, .high, [0]⟩ else ⟨.high, .low, []⟩ := by
    intro k
    simp [demo, State.reset, State.afterReset, Table.get_set, quietPins]
  refine ⟨demo_freeSlotsLaw, fun k i => ?_, fun k => ?_, fun k => ?_, fun k i => ?_⟩
  · rw [he, demo_recordAt]
    by_cases hk : k = 2 <;> by_cases hi : i = 0 <;> simp [hk, hi, demoRec, eq_comm]
  · rw [he]
    by_cases hk : k = 2 <;> simp [hk, boundLevel, demo_recordAt, demoRec, drivenLevel]
  · rw [ht]
    split <;> simp
  · rw [ht, demo_recordAt]
    by_cases hk : k = 3 <;> by_cases hi : i = 0 <;> simp [hk, hi, demoRec, eq_comm]

theorem demo_offerTableLaw : OfferTableLaw demo := by
  refine ⟨List.nodup_singleton _, fun i => ?_⟩
  rw [demo_recordAt]
  show _ ↔ i ∈ [0]
  by_cases hi : i = 0 <;> simp [hi, demoRec]

theorem demo_offerLaw : OfferLaw demo := by
  refine ⟨demo_freeSlotsLaw, demo_offerTableLaw, by decide +kernel, fun o ho => ?_⟩
  cases List.mem_singleton.1 ho
  simp only [demo_recordAt]
  decide +kernel

theorem demo_attentionLaw : AttentionLaw demo := by
  refine ⟨demo_freeSlotsLaw, demo_offerTableLaw, by decide +kernel, fun c i => ?_, by decide +kernel, by decide +kernel,
    by decide +kernel⟩
  have hs : (demo.attn.get c).set = if c = 1 then [0] else [] := by
    revert c
    decide +kernel
  rw [hs, demo_recordAt]
  by_cases hc : c = 1 <;> by_cases hi : i = 0 <;> simp [hc, hi, demoRec, plain, @eq_comm _ 1 c]

theorem demo_portsLaw : PortsLaw demo := by
  refine ⟨fun p => ?_, fun r hr => ?_⟩
  · have hp : ∀ p, (demo.ports.get p).state = .ready := by decide +kernel
    refine ⟨?_, ?_, ?_, ?_, fun h => ?_, fun h => absurd h (by rw [hp]; decide)⟩
    · revert p; decide +kernel
    · revert p; decide +kernel
    · unfold RequestBody; revert p; decide +kernel
    · revert p; decide +kernel
    · revert p; decide +kernel
  · cases hr
    unfold RequestBody
    decide

/-- The laws have a state, other than that after RESET, that meets them all. -/
theorem demo_safe : Safe demo := by
  refine ⟨?_, demo_portsLaw, ?_, ?_, demo_accountLaw, demo_timingLaw, demo_lineLaw, demo_offerLaw, demo_attentionLaw⟩
  · unfold TimeBaseLaw; decide +kernel
  · unfold ResponsesLaw; decide +kernel
  · unfold SupervisionLaw; decide +kernel

/-! ### Requests in service -/

/-- What Table 1-1 says of a slot's record `x` once its request is in service: client 1, record 402:6 at table time 1000, TRG4
(active HIGH) at `level` and EVT9 (idle LOW), each line bound to the record if the record names it, the record scheduled at its due
time, and in its owner's set if it is unacknowledged. -/
def scene (level : Level) (x : Rec) : State :=
  let s := holding 1000 402 6 x (x.dueTime.elim [] fun due => [{ slot := 402, due := due }])
  { s with
    freeList := []
    trg := s.trg.set 4
      { polarity := .high, level := level, listeners := if x.triggerBinding = some 4 then [402] else [] }
    evt := s.evt.set 9
      { idle := .low, bound := if x.outputBinding = some 9 then some 402 else none,
        driven := drivenLevel .low x.outputLevel }
    attn := s.attn.set 1
      { set := if x.unacknowledged then [402] else [], mask := 0, line := x.unacknowledged } }

/-- The handle of the record of `scene`. -/
def h402 : Handle := { slot := 402, generation := 6 }

theorem inService_ask {s : State} {p : Client} {k : Kind} {args : List Byte} (h : Passes s p k) :
    InService (ask s p k args) (request p k args) k args := ⟨rfl, ⟨7, rfl⟩, h⟩

/-- Port 0 is in the control set and no client is PURGING: every kind passes. -/
theorem inService_reset (k : Kind) (args : List Byte) :
    InService (ask State.reset 0 k args) (request 0 k args) k args :=
  inService_ask ⟨fun _ => by decide, fun _ => by decide⟩

/-- A request of client 1 on its own record, in service: what the statements on a record's owner ask. -/
def Owned (level : Level) (x : Rec) (k : Kind) (args : List Byte) : Prop :=
  InService (ask (scene level x) 1 k args) (request 1 k args) k args ∧ Names (ask (scene level x) 1 k args) h402 x ∧
    x.owner = (request 1 k args).port ∧ RecordLaw x ∧ OnItsLine (ask (scene level x) 1 k args) 402 x

theorem names_scene (level : Level) (x : Rec) (p : Client) (k : Kind) (args : List Byte) :
    Names (ask (scene level x) p k args) h402 x := by
  simp [Names, ask, scene, holding, h402]

theorem onItsLine_scene {level : Level} {x : Rec} (h : x.outputBinding.all (· = 9) = true) :
    OnItsLine (scene level x) 402 x := by
  intro k hk
  rw [hk] at h
  have hk9 : k = 9 := by simpa using h
  subst hk9
  simp [scene, hk]

theorem owned_of {level : Level} {x : Rec} {k : Kind} {args : List Byte}
    (h : (!k.isControl && decide (x.owner = 1) && recordCheck x && x.outputBinding.all (· = 9)) = true) :
    Owned level x k args := by
  simp only [Bool.and_eq_true, Bool.not_eq_true', decide_eq_true_eq] at h
  obtain ⟨⟨⟨hk, ho⟩, hx⟩, hb⟩ := h
  exact ⟨inService_ask ⟨fun c => by simp [hk] at c, fun _ => by simp [scene, holding, State.reset, State.afterReset]⟩,
    names_scene level x 1 k args, ho, recordLaw_of_check hx, fun j hj => onItsLine_scene (level := level) hb j hj⟩

/-- No law but that of the ports reads the request in service. -/
theorem laws_ask {s : State} (p : Client) (k : Kind) (args : List Byte) :
    (FreeSlotsLaw s → FreeSlotsLaw (ask s p k args)) ∧ (OfferTableLaw s → OfferTableLaw (ask s p k args)) ∧
      (OfferLaw s → OfferLaw (ask s p k args)) ∧ (AttentionLaw s → AttentionLaw (ask s p k args)) :=
  ⟨fun h => h, fun h => h, fun h => h, fun h => h⟩

/-- The two refusals of `OwnerOnly`, for every kind of request that is not a control request. -/
theorem witness_OwnerOnly (k : Kind) (hk : k.isControl = false) :
    (InService (ask State.reset 0 k (handleBytes h402)) (request 0 k (handleBytes h402)) k (handleBytes h402) ∧
      ∀ x, ¬ Names (ask State.reset 0 k (handleBytes h402)) h402 x) ∧
    InService (ask (scene .low plain) 2 k (handleBytes h402)) (request 2 k (handleBytes h402)) k (handleBytes h402) ∧
      Names (ask (scene .low plain) 2 k (handleBytes h402)) h402 plain ∧
      plain.owner ≠ (request 2 k (handleBytes h402)).port :=
  ⟨⟨inService_reset k _, fun x h => by simp [Names, ask, State.reset, State.afterReset] at h⟩,
    inService_ask ⟨fun c => by simp [hk] at c, fun _ => by simp [scene, holding, State.reset, State.afterReset]⟩,
    names_scene .low plain 2 k _, fun e => by cases e⟩

/-! ### Witnesses: laws and rules of the whole part -/

theorem witness_TimeBaseLawKept : ∃ t, TimeBaseLaw demo.timeBase ∧ step demo = .next t := ⟨_, demo_safe.1, rfl⟩
theorem witness_PortsLawKept : ∃ t, PortsLaw demo ∧ step demo = .next t := ⟨_, demo_safe.2.1, rfl⟩
theorem witness_ResponsesLawKept : ∃ t, ResponsesLaw demo ∧ step demo = .next t := ⟨_, demo_safe.2.2.1, rfl⟩
theorem witness_SupervisionLawKept : ∃ t, SupervisionLaw demo ∧ step demo = .next t := ⟨_, demo_safe.2.2.2.1, rfl⟩
theorem witness_AccountLawKept : ∃ t, AccountLaw demo ∧ step demo = .next t := ⟨_, demo_accountLaw, rfl⟩
theorem witness_TimingLawKept : ∃ t, TimingLaw demo ∧ step demo = .next t := ⟨_, demo_timingLaw, rfl⟩
theorem witness_LineLawKept : ∃ t, LineLaw demo ∧ step demo = .next t := ⟨_, demo_lineLaw, rfl⟩
theorem witness_OfferLawKept : ∃ t, OfferLaw demo ∧ step demo = .next t := ⟨_, demo_offerLaw, rfl⟩
theorem witness_AttentionLawKept : ∃ t, AttentionLaw demo ∧ step demo = .next t := ⟨_, demo_attentionLaw, rfl⟩

theorem witness_FreeSlotsAndOwnedCountsSumTo2048 : AccountLaw demo := demo_accountLaw

/-- Client 1 has an entry, client 2 an incoming offer, and client 3 the mask level 4. -/
theorem witness_AttentionLineLevel :
    AttentionLaw demo ∧ (demo.attn.get 1).set = [0] ∧ demo.offers.map Offer.receiver = [2] ∧ (demo.attn.get 3).mask = 4 :=
  ⟨demo_attentionLaw, by decide, by decide, by decide⟩

theorem witness_TableTimeMovesOnlyByAdvanceStartAndReset :
    (∃ t, step { demo with pending := [.advance] } = .next t ∧ t.tableTime = demo.tableTime + 1) ∧
    (∃ t, step { State.reset with
        pending := [.startTime], executor := some (request 0 .startTime (timeBytes 9 ++ byte3 1)) } = .next t ∧
      t.tableTime = 9) ∧
    ∃ t, step { demo with pending := [.reset quietPins] } = .next t ∧ t.tableTime = 0 :=
  ⟨⟨_, rfl, by decide +kernel⟩, ⟨_, rfl, by decide +kernel⟩, ⟨_, rfl, by decide +kernel⟩⟩

theorem witness_OwnerChangesOnlyByAccept :
    ∃ t y, FreeSlotsLaw (ask demo 2 .accept (handleBytes { slot := 0, generation := 3 })) ∧
      exec .accept (ask demo 2 .accept (handleBytes { slot := 0, generation := 3 })) = .next t ∧
      recordAt demo 0 = some demoRec ∧ recordAt t 0 = some y ∧ y.owner = 2 :=
  ⟨_, { demoRec with owner := 2, offered := false }, (laws_ask _ _ _).1 demo_freeSlotsLaw, rfl, by decide +kernel, by decide +kernel, rfl⟩

theorem witness_FiringsOnlyAtExpiries :
    ∃ t y, FreeSlotsLaw demo ∧ exec (.triggerEvent 3 .low) demo = .next t ∧ recordAt demo 0 = some demoRec ∧
      recordAt t 0 = some y ∧ y.unacknowledged = true :=
  ⟨_, { demoRec with state := .suspended, dueTime := none, remaining := some 100 }, demo_freeSlotsLaw, rfl,
    by decide +kernel, by decide +kernel, rfl⟩

theorem witness_EveryRequestIsAnsweredOnce (k : Kind) :
    (ask State.reset 0 k [0]).executor = some (request 0 k [0]) ∧ RequestBody (request 0 k [0]).body ∧
      (request 0 k [0]).body.head? = some k.code := ⟨rfl, ⟨by simp [request], by simp [request]⟩, rfl⟩

/-- The kind 0x21 with 2 bytes more is a START-TIME too short; 0x35 is past the catalogue; client 1 is outside the control set;
client 3 of `demo` is PURGING. -/
theorem witness_GeneralChecksInOrder :
    (RequestBody [0x35, 7, 0] ∧ ∀ k : Kind, [(0x35 : Byte), 7, 0].head? ≠ some k.code) ∧
    (RequestBody (request 0 .startTime [0]).body ∧
      (request 0 .startTime [0]).body.length ≠ 2 + argumentBytes (request 0 .startTime [0]).body .startTime) ∧
    (RequestBody (request 1 .stopTime [0]).body ∧
      (request 1 .stopTime [0]).body.length = 2 + argumentBytes (request 1 .stopTime [0]).body .stopTime ∧
      Kind.stopTime.isControl = true ∧ (ask demo 1 .stopTime [0]).control.get 1 = false) ∧
    (RequestBody (request 3 .querySet (byte1 1 ++ handleBytes h402)).body ∧
      (request 3 .querySet (byte1 1 ++ handleBytes h402)).body.length =
        2 + argumentBytes (request 3 .querySet (byte1 1 ++ handleBytes h402)).body .querySet ∧
      (ask demo 3 .querySet (byte1 1 ++ handleBytes h402)).purging.get 3 = true) ∧
    (RequestBody (request 3 .readTime [0]).body ∧
      (request 3 .readTime [0]).body.length = 2 + argumentBytes (request 3 .readTime [0]).body .readTime ∧
      Passes (ask demo 3 .readTime [0]) 3 .readTime) := by
  unfold RequestBody Passes
  exact ⟨⟨by decide, fun k => by cases k <;> decide⟩, by decide, by decide, by decide, by decide⟩

/-! ### Witnesses: arguments out of range, at the bounds -/

/-- A request of port 0 right after reset with an argument out of range. -/
def Bad (k : Kind) (args : List Byte) : Prop :=
  InService (ask State.reset 0 k args) (request 0 k args) k args ∧ OutOfRange (ask State.reset 0 k args) 0 k args

theorem bad_of {k : Kind} {args : List Byte} (h : OutOfRange (ask State.reset 0 k args) 0 k args) : Bad k args :=
  ⟨inService_reset k args, h⟩

theorem witness_OutOfRangeArgumentsAnswerBadField_create :
    Bad .create (byte1 5 ++ byte3 2 ++ byte1 3 ++ byte2 0 ++ byte1 1) ∧
    Bad .create (byte1 0 ++ byte3 0 ++ byte1 0 ++ byte2 0 ++ byte1 0) ∧
    Bad .create (byte1 2 ++ byte3 1 ++ byte1 0 ++ byte2 0 ++ byte1 0) ∧
    Bad .create (byte1 4 ++ byte3 1 ++ byte1 4 ++ byte2 65535 ++ byte1 0) ∧
    Bad .create (byte1 0 ++ byte3 16777215 ++ byte1 3 ++ byte2 0 ++ byte1 2) :=
  ⟨bad_of ⟨5, 2, 3, 0, 1, by decide⟩, bad_of ⟨0, 0, 0, 0, 0, by decide⟩, bad_of ⟨2, 1, 0, 0, 0, by decide⟩,
    bad_of ⟨4, 1, 4, 65535, 0, by decide⟩, bad_of ⟨0, 16777215, 3, 0, 2, by decide⟩⟩

theorem witness_OutOfRangeArgumentsAnswerBadField_records :
    Bad .revise (handleBytes h402 ++ byte3 0) ∧
    OutOfRange (ask (scene .low { plain with mode := .cyclic }) 1 .revise (handleBytes h402 ++ byte3 1)) 1 .revise
      (handleBytes h402 ++ byte3 1) ∧
    Bad .relabel (handleBytes h402 ++ byte2 0 ++ byte1 4 ++ byte1 0) ∧
    Bad .relabel (handleBytes h402 ++ byte2 0 ++ byte1 3 ++ byte1 2) ∧
    Bad .querySet (byte1 0) ∧ Bad .querySet (byte1 9 ++ List.replicate 18 0) ∧
    Bad .offer (handleBytes h402 ++ byte1 4 ++ byte3 1) ∧ Bad .offer (handleBytes h402 ++ byte1 0 ++ byte3 1) ∧
    Bad .offer (handleBytes h402 ++ byte1 1 ++ byte3 0) :=
  ⟨bad_of ⟨h402, 0, by decide, rfl, .inl rfl⟩,
    ⟨h402, 1, by decide, rfl, .inr ⟨rfl, _, names_scene .low _ 1 _ _, .inl rfl⟩⟩,
    bad_of ⟨h402, 0, 4, 0, by decide⟩, bad_of ⟨h402, 0, 3, 2, by decide⟩,
    bad_of ⟨0, [], by decide⟩, bad_of ⟨9, List.replicate 18 0, by decide⟩,
    bad_of ⟨h402, 4, 1, by decide⟩, bad_of ⟨h402, 0, 1, by decide⟩, bad_of ⟨h402, 1, 0, by decide⟩⟩

theorem witness_OutOfRangeArgumentsAnswerBadField_rest :
    Bad .bindOutput (handleBytes h402 ++ byte1 16) ∧ Bad .bindTrigger (handleBytes h402 ++ byte1 16) ∧
    Bad .unbind (handleBytes h402 ++ byte1 2) ∧ Bad .collect (byte1 0) ∧ Bad .collect (byte1 9) ∧ Bad .setMask (byte1 5) ∧
    Bad .startTime (timeBytes 0 ++ byte3 0) ∧ Bad .startTime (timeBytes 0 ++ byte3 65537) ∧
    Bad .setReleasePolicy (byte1 2) ∧ Bad .configureTrigger (byte1 16 ++ byte1 1) ∧
    Bad .configureOutput (byte1 15 ++ byte1 2) ∧ Bad .setQuota (byte1 4 ++ byte2 0) ∧
    Bad .setQuota (byte1 3 ++ byte2 2049) ∧ Bad .grantControl (byte1 4) ∧ Bad .purgeClient (byte1 4) ∧
    Bad .revokeControl (byte1 4) ∧ Bad .revokeControl (byte1 0) :=
  ⟨bad_of ⟨h402, 16, by decide⟩, bad_of ⟨h402, 16, by decide⟩, bad_of ⟨h402, 2, by decide⟩, bad_of ⟨0, by decide⟩,
    bad_of ⟨9, by decide⟩, bad_of ⟨5, by decide⟩, bad_of ⟨0, 0, by decide⟩, bad_of ⟨0, 65537, by decide⟩,
    bad_of ⟨2, by decide⟩, bad_of ⟨16, 1, by decide⟩, bad_of ⟨15, 2, by decide⟩, bad_of ⟨4, 0, by decide⟩,
    bad_of ⟨3, 2049, by decide⟩, bad_of ⟨4, by decide⟩, bad_of ⟨4, by decide⟩, bad_of ⟨4, by decide⟩,
    bad_of ⟨0, by decide⟩⟩

/-! ### Witnesses: requests on a record as a whole -/

theorem finRange_cons (n : Nat) : ∃ rest, List.finRange (n + 1) = 0 :: rest := ⟨_, List.finRange_succ⟩

/-- QUOTA, TABLE_FULL and the record, at the ends of the period's range. -/
theorem witness_CreateFillsTheHeadSlot :
    (∀ s : State, s.control = State.reset.control → s.purging = State.reset.purging →
      ∀ args, InService (ask s 0 .create args) (request 0 .create args) .create args) ∧
    PeriodInRange .single 1 ∧ PeriodInRange .cyclic 2 ∧ PeriodInRange .watch 16777215 ∧
    (let s := { State.reset with owned := State.reset.owned.set 0 512 };
      s.quota.get 0 ≤ s.owned.get 0) ∧
    (let s := { State.reset with freeList := [] };
      s.owned.get 0 < s.quota.get 0 ∧ s.freeList = []) ∧
    State.reset.owned.get 0 < State.reset.quota.get 0 ∧ ∃ rest, State.reset.freeList = 0 :: rest := by
  unfold PeriodInRange
  refine ⟨fun s _ hp args => inService_ask ⟨fun c => (by cases c), fun _ => ?_⟩, by decide, by decide, by decide,
    by decide, by decide, by decide, ?_⟩
  · rw [hp]; decide
  · simp only [State.reset, State.afterReset, allSlots]
    exact finRange_cons 2047

theorem witness_RetireRetiresAndReports :
    Owned .low { plain with state := .fired, unacknowledged := true, firstFire := some 9, overrun := 255, lastFire := some 9 }
      .retire (handleBytes h402) ∧ Owned .low plain .retire (handleBytes h402) :=
  ⟨owned_of (by decide), owned_of (by decide)⟩

/-- The record of `demo` is ARMED, bound to both kinds of line, in a set and offered. -/
theorem witness_RetirementEffects : AttentionLaw demo ∧ recordAt demo 0 = some demoRec :=
  ⟨demo_attentionLaw, by decide +kernel⟩

/-- An unacknowledged record whose priority changes, and one whose priority stands. -/
theorem witness_RelabelRewritesAndMoves :
    let x := { plain with unacknowledged := true, firstFire := some 9, lastFire := some 9 }
    (∃ priority : Fin 4, Owned .low x .relabel (handleBytes h402 ++ byte2 65535 ++ byte1 priority.val ++ yesNo true) ∧
      priority ≠ x.priority) ∧
    ∃ priority : Fin 4, Owned .low x .relabel (handleBytes h402 ++ byte2 0 ++ byte1 priority.val ++ yesNo false) ∧
      priority = x.priority :=
  ⟨⟨3, owned_of (by decide), by decide⟩, ⟨1, owned_of (by decide), by decide⟩⟩

/-- Client 1's record, offered and shared in `demo`, and not shared in the other scene. -/
theorem witness_QueryReportsTheRecord :
    Owned .low plain .query (handleBytes h402) ∧ plain.offered = false ∧
    (InService (ask (scene .low plain) 2 .query (handleBytes h402)) (request 2 .query (handleBytes h402)) .query
        (handleBytes h402) ∧ plain.owner ≠ 2 ∧ plain.share = false) ∧
    (let h : Handle := { slot := 0, generation := 3 };
      InService (ask demo 2 .query (handleBytes h)) (request 2 .query (handleBytes h)) .query (handleBytes h) ∧
        Names (ask demo 2 .query (handleBytes h)) h demoRec ∧ demoRec.share = true ∧
        (∃ o ∈ (ask demo 2 .query (handleBytes h)).offers, o.record = h.slot) ∧
        OfferTableLaw (ask demo 2 .query (handleBytes h))) := by
  refine ⟨owned_of (by decide), rfl, ⟨(witness_OwnerOnly .query rfl).2.1, by decide, rfl⟩, ?_⟩
  exact ⟨inService_ask ⟨fun c => (by cases c), fun _ => by decide⟩, by unfold Names; decide +kernel, rfl,
    by decide, (laws_ask _ _ _).2.1 demo_offerTableLaw⟩

theorem witness_RecordReportLayout :
    RecordLaw demoRec ∧
    RecordLaw { plain with state := .suspended, remaining := some 1 } ∧
    RecordLaw { plain with mode := .square, state := .armed, dueTime := some 3, phase := some .high, staged := some 2 } :=
  ⟨recordLaw_of_check (by decide), recordLaw_of_check (by decide), recordLaw_of_check (by decide)⟩

/-- One handle and eight, and each of the four kinds of entry. -/
theorem witness_QuerySetLaysTheEntriesThatFit :
    (∀ n, 1 ≤ n → n ≤ 8 → ∃ handles : List Handle, handles.length = n ∧
      InService (ask demo 1 .querySet (byte1 handles.length ++ handles.flatMap handleBytes))
        (request 1 .querySet (byte1 handles.length ++ handles.flatMap handleBytes)) .querySet
        (byte1 handles.length ++ handles.flatMap handleBytes)) ∧
    (∀ x, ¬ Names demo h402 x) ∧ Names (scene .low plain) h402 plain ∧ plain.offered = false ∧
    Names demo { slot := 0, generation := 3 } demoRec ∧ OfferTableLaw demo ∧ ∃ o ∈ demo.offers, o.record = 0 := by
  refine ⟨fun n _ _ => ⟨List.replicate n h402, by simp, inService_ask ⟨fun c => (by cases c), fun _ => by decide⟩⟩,
    fun x h => ?_, names_scene .low plain 1 .query [], rfl, by unfold Names; decide +kernel, demo_offerTableLaw,
    by decide⟩
  have := recordAt_of_names h
  rw [demo_recordAt] at this
  simp [h402] at this

/-! ### Witnesses: arming, disarming and revising -/

/-- The gate of the record of `scene` is closed, or open, as TRG4's level says. -/
theorem gate_scene (level : Level) (x : Rec) (k : Kind) (args : List Byte) (h : x.triggerBinding = some 4) :
    GateClosed (ask (scene level x) 1 k args) x ↔ level = .low := by
  have ht : (ask (scene level x) 1 k args).trg.get 4 = { polarity := .high, level := level, listeners := [402] } := by
    simp [ask, scene, h]
  constructor
  · rintro ⟨j, hj, hl⟩
    cases h.symm.trans hj
    rw [ht] at hl
    cases level
    · rfl
    · exact absurd rfl hl
  · rintro rfl
    exact ⟨4, h, by rw [ht]; decide⟩

/-- Each clause: WRONG_STATE, NO_TRIGGER, the two arms with a due time, SUSPENDED with and without a remaining count, WAITING. -/
theorem witness_ArmStartsTheRecord :
    (∃ x, Owned .low x .arm (handleBytes h402) ∧ x.state ≠ .idle ∧ x.state ≠ .fired) ∧
    (∃ x, Owned .low x .arm (handleBytes h402) ∧ x.state = .idle ∧ x.mode = .delayed ∧ x.triggerBinding = none) ∧
    (∃ x, Owned .high x .arm (handleBytes h402) ∧ x.state = .fired ∧ x.mode = .single ∧
      ¬ GateClosed (ask (scene .high x) 1 .arm (handleBytes h402)) x) ∧
    (∃ x, Owned .low x .arm (handleBytes h402) ∧ x.state = .fired ∧ x.mode = .watch ∧ x.staged = some 16777215) ∧
    (∃ x, Owned .high x .arm (handleBytes h402) ∧ x.state = .idle ∧ x.mode = .square ∧
      ¬ GateClosed (ask (scene .high x) 1 .arm (handleBytes h402)) x) ∧
    (∃ x, Owned .low x .arm (handleBytes h402) ∧ x.state = .idle ∧ x.mode = .single ∧
      GateClosed (ask (scene .low x) 1 .arm (handleBytes h402)) x) ∧
    (∃ x, Owned .low x .arm (handleBytes h402) ∧ x.state = .idle ∧ x.mode = .square ∧
      GateClosed (ask (scene .low x) 1 .arm (handleBytes h402)) x) ∧
    ∃ x, Owned .low x .arm (handleBytes h402) ∧ x.state = .idle ∧ x.mode = .delayed ∧ x.triggerBinding ≠ none := by
  refine ⟨⟨{ plain with state := .armed, dueTime := some 1050 }, owned_of (by decide), by decide, by decide⟩,
    ⟨{ plain with mode := .delayed }, owned_of (by decide), rfl, rfl, rfl⟩,
    ⟨{ plain with state := .fired, triggerBinding := some 4, outputBinding := some 9, outputLevel := some .active },
      owned_of (by decide), rfl, rfl, fun h => ?_⟩,
    ⟨{ plain with mode := .watch, state := .fired, staged := some 16777215 }, owned_of (by decide), rfl, rfl, rfl⟩,
    ⟨{ plain with mode := .square, period := 2, triggerBinding := some 4 }, owned_of (by decide), rfl, rfl, fun h => ?_⟩,
    ⟨{ plain with triggerBinding := some 4 }, owned_of (by decide), rfl, rfl, (gate_scene _ _ _ _ rfl).2 rfl⟩,
    ⟨{ plain with mode := .square, triggerBinding := some 4 }, owned_of (by decide), rfl, rfl,
      (gate_scene _ _ _ _ rfl).2 rfl⟩,
    ⟨{ plain with mode := .delayed, triggerBinding := some 4 }, owned_of (by decide), rfl, rfl, by decide⟩⟩ <;>
  exact absurd ((gate_scene _ _ _ _ rfl).1 h) (by decide)

theorem witness_DisarmReturnsToIdle :
    Owned .low plain .disarm (handleBytes h402) ∧
    (∃ x, Owned .low x .disarm (handleBytes h402) ∧ x.state = .fired) ∧
    ∃ x, Owned .low x .disarm (handleBytes h402) ∧ x.state = .armed ∧ x.mode = .cyclic :=
  ⟨owned_of (by decide), ⟨{ plain with state := .fired }, owned_of (by decide), rfl⟩,
    ⟨{ plain with mode := .cyclic, state := .armed, dueTime := some 1010, staged := some 3 }, owned_of (by decide), rfl,
      rfl⟩⟩

/-- The four lines of Table 5-1, with periods at the ends of their range; 1 is in range for a SINGLE record. -/
theorem witness_ReviseReplacesOrStages :
    (∃ x, Owned .low x .revise (handleBytes h402 ++ byte3 1) ∧ x.mode = .single ∧ x.state = .armed) ∧
    (∃ x, Owned .low x .revise (handleBytes h402 ++ byte3 16777215) ∧ x.mode = .single ∧ x.state = .suspended) ∧
    (∃ x, Owned .low x .revise (handleBytes h402 ++ byte3 2) ∧ x.mode = .watch ∧ x.state = .fired ∧
      x.staged ≠ none) ∧
    (∃ x, Owned .low x .revise (handleBytes h402 ++ byte3 2) ∧ x.mode = .cyclic ∧ x.state = .idle) ∧
    ∃ x, Owned .low x .revise (handleBytes h402 ++ byte3 16777215) ∧ x.mode = .square ∧ x.state = .armed ∧
      x.staged = some 6 :=
  ⟨⟨{ plain with state := .armed, dueTime := some 1050 }, owned_of (by decide), rfl, rfl⟩,
    ⟨{ plain with state := .suspended, remaining := some 1 }, owned_of (by decide), rfl, rfl⟩,
    ⟨{ plain with mode := .watch, state := .fired, staged := some 1 }, owned_of (by decide), rfl, rfl, by decide⟩,
    ⟨{ plain with mode := .cyclic }, owned_of (by decide), rfl, rfl⟩,
    ⟨{ plain with mode := .square, state := .armed, dueTime := some 1004, phase := some .low, staged := some 6 },
      owned_of (by decide), rfl, rfl, rfl⟩⟩

/-! ### Witnesses: lines -/

/-- WRONG_STATE; LINE_BUSY in the state of `demo`, where EVT2 is bound to another record; bound to EVT9 already; a free line. -/
theorem witness_BindOutputBindsAnIdleRecord :
    (∃ x, Owned .low x .bindOutput (handleBytes h402 ++ byte1 15) ∧ x.state = .fired) ∧
    (let s := { scene .low plain with evt := demo.evt };
      InService (ask s 1 .bindOutput (handleBytes h402 ++ byte1 2)) (request 1 .bindOutput (handleBytes h402 ++ byte1 2))
          .bindOutput (handleBytes h402 ++ byte1 2) ∧
        Names (ask s 1 .bindOutput (handleBytes h402 ++ byte1 2)) h402 plain ∧ plain.state = .idle ∧
        (s.evt.get 2).bound = some 0) ∧
    (∃ x, Owned .low x .bindOutput (handleBytes h402 ++ byte1 9) ∧ x.state = .idle ∧ x.outputBinding = some 9 ∧
      ((scene .low x).evt.get 9).bound = some 402) ∧
    ∃ x, Owned .low x .bindOutput (handleBytes h402 ++ byte1 0) ∧ x.state = .idle ∧ x.outputBinding = some 9 ∧
      ((scene .low x).evt.get 0).bound = none := by
  refine ⟨⟨{ plain with state := .fired }, owned_of (by decide), rfl⟩,
    ⟨inService_ask ⟨fun c => (by cases c), fun _ => by decide +kernel⟩, by unfold Names; decide +kernel, rfl,
      by decide +kernel⟩,
    ⟨{ plain with outputBinding := some 9, outputLevel := some .inactive }, owned_of (by decide), rfl, rfl,
      by decide +kernel⟩,
    ⟨{ plain with outputBinding := some 9, outputLevel := some .inactive }, owned_of (by decide), rfl, rfl,
      by decide +kernel⟩⟩

theorem witness_BindTriggerJoinsTheTail :
    (∃ x, Owned .low x .bindTrigger (handleBytes h402 ++ byte1 15) ∧ x.state = .suspended) ∧
    (∃ x, Owned .low x .bindTrigger (handleBytes h402 ++ byte1 4) ∧ x.state = .idle ∧ x.triggerBinding = some 4 ∧
      ((scene .low x).trg.get 4).listeners = [] ++ 402 :: []) ∧
    ∃ x, Owned .low x .bindTrigger (handleBytes h402 ++ byte1 0) ∧ x.state = .idle ∧ x.triggerBinding = some 4 ∧
      h402.slot ∉ ((scene .low x).trg.get 0).listeners :=
  ⟨⟨{ plain with state := .suspended, remaining := some 3 }, owned_of (by decide), rfl⟩,
    ⟨{ plain with triggerBinding := some 4 }, owned_of (by decide), rfl, rfl, by decide +kernel⟩,
    ⟨{ plain with triggerBinding := some 4 }, owned_of (by decide), rfl, rfl, by decide +kernel⟩⟩

theorem witness_UnbindRemovesABinding :
    (∃ x, Owned .low x .unbind (handleBytes h402 ++ byte1 BindingKind.output.code) ∧ x.state ≠ .idle) ∧
    (∃ x, Owned .low x .unbind (handleBytes h402 ++ byte1 BindingKind.output.code) ∧ x.state = .idle ∧
      x.outputBinding = some 9) ∧
    (∃ x, Owned .low x .unbind (handleBytes h402 ++ byte1 BindingKind.trigger.code) ∧ x.state = .idle ∧
      x.triggerBinding = some 4) ∧
    ∀ kind : BindingKind, Owned .low plain .unbind (handleBytes h402 ++ byte1 kind.code) ∧ plain.state = .idle ∧
      plain.outputBinding = none ∧ plain.triggerBinding = none :=
  ⟨⟨{ plain with state := .fired }, owned_of (by decide), by decide⟩,
    ⟨{ plain with outputBinding := some 9, outputLevel := some .inactive }, owned_of (by decide), rfl, rfl⟩,
    ⟨{ plain with triggerBinding := some 4 }, owned_of (by decide), rfl, rfl⟩,
    fun _ => ⟨owned_of (by decide), rfl, rfl, rfl⟩⟩

theorem witness_ConfigureSetsThePolarity :
    (∀ k args, InService (ask { demo with purging := State.reset.purging } 0 k args) (request 0 k args) k args) ∧
    (demo.trg.get 3).listeners ≠ [] ∧ (demo.trg.get 15).listeners = [] ∧ (demo.evt.get 2).bound ≠ none ∧
    (demo.evt.get 15).bound = none :=
  ⟨fun _ _ => inService_ask ⟨fun _ => by decide, fun _ => by decide⟩, by decide, by decide, by decide, by decide⟩

/-- TRG3 of `demo` is HIGH, with one listener, and TRG0 LOW, with none. -/
theorem witness_TriggerEventIsDeliveredInListOrder :
    (demo.trg.get 3).level ≠ .low ∧ (demo.trg.get 3).listeners = [0] ∧ (demo.trg.get 0).level ≠ .high := by decide

/-- A record in `scene`, by the rules of Table 1-1 and on its line. -/
def Stands (x : Rec) : Prop := recordAt (scene .low x) 402 = some x ∧ RecordLaw x ∧ OnItsLine (scene .low x) 402 x

theorem stands_of {x : Rec} (h : (recordCheck x && x.outputBinding.all (· = 9)) = true) : Stands x := by
  obtain ⟨hx, hb⟩ := Bool.and_eq_true_iff.1 h
  exact ⟨recordAt_of_names (names_scene .low x 1 .arm []), recordLaw_of_check hx, onItsLine_scene hb⟩

/-- A record in every mode and state that an assert or a deassert changes, and in those neither does. -/
theorem witness_DeliveryFollowsTheMode :
    (∃ x, Stands x ∧ x.mode = .single ∧ x.state = .suspended ∧ x.remaining = some 1) ∧
    (∃ x, Stands x ∧ x.mode = .cyclic ∧ x.state = .suspended ∧ x.staged = some 2) ∧
    (∃ x, Stands x ∧ x.mode = .square ∧ x.state = .suspended ∧ x.outputBinding = some 9) ∧
    (∃ x, Stands x ∧ x.mode = .delayed ∧ x.state = .waiting) ∧
    (∃ x, Stands x ∧ x.mode = .delayed ∧ x.state = .armed ∧ x.outputBinding = some 9) ∧
    (∃ x, Stands x ∧ x.mode = .watch ∧ x.state = .armed) ∧
    (∃ x, Stands x ∧ x.state = .idle) ∧ (∃ x, Stands x ∧ x.state = .fired) ∧
    (∃ x, Stands x ∧ x.mode = .single ∧ x.state = .armed ∧ x.dueTime = some 1001) ∧
    (∃ x, Stands x ∧ x.mode = .cyclic ∧ x.state = .armed) ∧
    ∃ x, Stands x ∧ x.mode = .square ∧ x.state = .armed ∧ x.phase = some .high :=
  ⟨⟨{ plain with state := .suspended, remaining := some 1 }, stands_of (by decide), rfl, rfl, rfl⟩,
    ⟨{ plain with mode := .cyclic, state := .suspended, staged := some 2 }, stands_of (by decide), rfl, rfl, rfl⟩,
    ⟨{ plain with mode := .square, state := .suspended, outputBinding := some 9, outputLevel := some .inactive },
      stands_of (by decide), rfl, rfl, rfl⟩,
    ⟨{ plain with mode := .delayed, state := .waiting, triggerBinding := some 4 }, stands_of (by decide), rfl, rfl⟩,
    ⟨{ plain with
        mode := .delayed, state := .armed, dueTime := some 1001, triggerBinding := some 4, outputBinding := some 9,
        outputLevel := some .active }, stands_of (by decide), rfl, rfl, rfl⟩,
    ⟨{ plain with mode := .watch, state := .armed, dueTime := some 1001 }, stands_of (by decide), rfl, rfl⟩,
    ⟨plain, stands_of (by decide), rfl⟩, ⟨{ plain with state := .fired }, stands_of (by decide), rfl⟩,
    ⟨{ plain with state := .armed, dueTime := some 1001 }, stands_of (by decide), rfl, rfl, rfl⟩,
    ⟨{ plain with mode := .cyclic, state := .armed, dueTime := some 1001 }, stands_of (by decide), rfl, rfl⟩,
    ⟨{ plain with mode := .square, state := .armed, dueTime := some 1001, phase := some .high }, stands_of (by decide),
      rfl, rfl, rfl⟩⟩

/-! ### Witnesses: attention and offers -/

theorem witness_CollectRemovesTheFirstEntries :
    ∀ n : Nat, 1 ≤ n → n ≤ 8 →
      InService (ask demo 1 .collect (byte1 n)) (request 1 .collect (byte1 n)) .collect (byte1 n) ∧
        AttentionLaw (ask demo 1 .collect (byte1 n)) ∧ (demo.attn.get 1).set = [0] :=
  fun _ _ _ => ⟨inService_ask ⟨fun c => (by cases c), fun _ => by decide⟩, (laws_ask _ _ _).2.2.2 demo_attentionLaw,
    by decide +kernel⟩

/-- In the set, never fired, and collected since its last firing. -/
theorem witness_AcknowledgeRemovesOneEntry :
    (∃ x, Owned .low x .acknowledge (handleBytes h402) ∧ h402.slot ∈ ((scene .low x).attn.get 1).set ∧
      x.firstFire = some 9 ∧ x.lastFire = some 10 ∧ x.overrun = 255) ∧
    (∃ x, Owned .low x .acknowledge (handleBytes h402) ∧ h402.slot ∉ ((scene .low x).attn.get 1).set ∧
      x.lastFire = none) ∧
    ∃ x, Owned .low x .acknowledge (handleBytes h402) ∧ h402.slot ∉ ((scene .low x).attn.get 1).set ∧
      x.lastFire = some 10 :=
  ⟨⟨{ plain with unacknowledged := true, firstFire := some 9, lastFire := some 10, overrun := 255 },
      owned_of (by decide), by decide +kernel, rfl, rfl, rfl⟩,
    ⟨plain, owned_of (by decide), by decide +kernel, rfl⟩,
    ⟨{ plain with lastFire := some 10 }, owned_of (by decide), by decide +kernel, rfl⟩⟩

theorem witness_SetMaskWritesTheLevel :
    ∀ n : Nat, n ≤ 4 → InService (ask demo 1 .setMask (byte1 n)) (request 1 .setMask (byte1 n)) .setMask (byte1 n) :=
  fun _ _ => inService_ask ⟨fun c => (by cases c), fun _ => by decide⟩

/-- ALREADY_OFFERED, PURGING (client 3 of `demo`), OFFER_FULL and the offer, with intervals at the ends of their range. -/
theorem witness_OfferOpensAtTheTail :
    (∃ x, Owned .low x .offer (handleBytes h402 ++ byte1 2 ++ byte3 1) ∧ x.offered = true) ∧
    (Owned .low plain .offer (handleBytes h402 ++ byte1 3 ++ byte3 16777215) ∧ plain.offered = false ∧
      (scene .low plain).purging.get 3 = false ∧ (scene .low plain).offers.length < 32) ∧
    (let s := { scene .low plain with purging := demo.purging };
      InService (ask s 1 .offer (handleBytes h402 ++ byte1 3 ++ byte3 1))
          (request 1 .offer (handleBytes h402 ++ byte1 3 ++ byte3 1)) .offer (handleBytes h402 ++ byte1 3 ++ byte3 1) ∧
        Names (ask s 1 .offer (handleBytes h402 ++ byte1 3 ++ byte3 1)) h402 plain ∧ s.purging.get 3 = true) ∧
    (let s := { scene .low plain with offers := List.replicate 32 { record := 5, giver := 2, receiver := 0, lapse := 9 } };
      InService (ask s 1 .offer (handleBytes h402 ++ byte1 0 ++ byte3 1))
          (request 1 .offer (handleBytes h402 ++ byte1 0 ++ byte3 1)) .offer (handleBytes h402 ++ byte1 0 ++ byte3 1) ∧
        Names (ask s 1 .offer (handleBytes h402 ++ byte1 0 ++ byte3 1)) h402 plain ∧ s.purging.get 0 = false ∧
        32 ≤ s.offers.length) :=
  ⟨⟨{ plain with offered := true }, owned_of (by decide), rfl⟩,
    ⟨owned_of (by decide), rfl, by decide +kernel, by decide +kernel⟩,
    ⟨inService_ask ⟨fun c => (by cases c), fun _ => by decide +kernel⟩, by unfold Names; decide +kernel,
      by decide +kernel⟩,
    ⟨inService_ask ⟨fun c => (by cases c), fun _ => by decide +kernel⟩, by unfold Names; decide +kernel,
      by decide +kernel, by decide +kernel⟩⟩

/-- The handle of the record of `demo`, offered by client 1 to client 2. -/
def h0 : Handle := { slot := 0, generation := 3 }

/-- A state that differs in a quota or in table time. -/
theorem laws_quota {s : State} {q : Table Nat 4} (h : OfferLaw s) (a : AttentionLaw s) :
    OfferLaw { s with quota := q } ∧ AttentionLaw { s with quota := q } := ⟨h, a⟩

theorem offerTableLaw_at {s : State} (now : Time) (h : OfferTableLaw s) : OfferTableLaw { s with tableTime := now } := h

theorem names_demo : Names demo h0 demoRec := by
  unfold Names
  decide +kernel

theorem names_ask {s : State} {h : Handle} {x : Rec} {q : Table Nat 4} {p : Client} {k : Kind} {args : List Byte}
    (hx : Names s h x) : Names (ask { s with quota := q } p k args) h x := hx

/-- A request on the offer of `demo` by a client that is NORMAL, with client `full` at its quota. -/
def Offering (p full : Client) (k : Kind) : Prop :=
  let s := ask { demo with quota := demo.quota.set full 0 } p k (handleBytes h0)
  InService s (request p k (handleBytes h0)) k (handleBytes h0) ∧ OfferLaw s ∧ AttentionLaw s ∧ Names s h0 demoRec

theorem offering_of {p full : Client} {k : Kind} (h : (!k.isControl && !demo.purging.get p) = true) :
    Offering p full k := by
  simp only [Bool.and_eq_true, Bool.not_eq_true'] at h
  exact ⟨inService_ask ⟨fun c => by simp [h.1] at c, fun _ => h.2⟩, (laws_ask _ _ _).2.2.1 (laws_quota demo_offerLaw demo_attentionLaw).1,
    (laws_ask _ _ _).2.2.2 (laws_quota demo_offerLaw demo_attentionLaw).2, names_ask names_demo⟩

/-- NO_OFFER (client 0), QUOTA (client 2 at quota 0), and the acceptance by client 2. -/
theorem witness_AcceptHandsTheRecordOver :
    (Offering 0 0 .accept ∧ ∀ o ∈ demo.offers, o.record = h0.slot → o.receiver ≠ 0) ∧
    (Offering 2 2 .accept ∧ (demo.quota.set 2 0).get 2 ≤ demo.owned.get 2) ∧
    Offering 2 0 .accept ∧ demo.owned.get 2 < (demo.quota.set 0 0).get 2 ∧
      ∃ o ∈ demo.offers, o.record = h0.slot ∧ o.receiver = 2 :=
  ⟨⟨offering_of (by decide), by decide⟩, ⟨offering_of (by decide), by decide⟩, offering_of (by decide), by decide,
    by decide⟩

theorem witness_DeclineWithdrawAndLapseEndTheOffer :
    (Offering 0 0 .decline ∧ ∀ o ∈ demo.offers, o.record = h0.slot → o.receiver ≠ 0) ∧
    (Offering 2 0 .decline ∧ ∃ o ∈ demo.offers, o.record = h0.slot ∧ o.receiver = 2) ∧
    (Offering 1 0 .withdraw ∧ demoRec.owner = 1 ∧ ∃ o ∈ demo.offers, o.record = h0.slot) ∧
    (Owned .low plain .withdraw (handleBytes h402) ∧ ∀ o ∈ (scene .low plain).offers, o.record ≠ h402.slot) ∧
    let s := { demo with tableTime := 1009 };
      OfferTableLaw s ∧ recordAt s 0 = some demoRec ∧ (∃ o ∈ s.offers, o.record = 0 ∧ ahead s.tableTime o.lapse = 1) ∧
        tbState s.timeBase = .running ∧ 0 < s.timeBase.owed :=
  ⟨⟨offering_of (by decide), by decide⟩, ⟨offering_of (by decide), by decide⟩,
    ⟨offering_of (by decide), rfl, by decide⟩, ⟨owned_of (by decide), by decide +kernel⟩,
    offerTableLaw_at 1009 demo_offerTableLaw, by decide +kernel, by decide +kernel, by decide, by decide⟩

/-! ### Witnesses: the time base, advances and expiries -/

/-- Every kind, with the pad byte at either end of its range. -/
theorem witness_ReadingRequestsChangeNothing (k : Kind) :
    InService (ask State.reset 0 k [0]) (request 0 k [0]) k [0] ∧
      InService (ask State.reset 0 k [255]) (request 0 k [255]) k [255] := ⟨inService_reset k _, inService_reset k _⟩

/-- STOPPED after RESET, and running in the other state. -/
theorem witness_StartTimeRebasesEveryDeadline :
    (∀ n : Nat, 1 ≤ n → n ≤ 65536 → ∀ new : Time,
      InService (ask State.reset 0 .startTime (timeBytes new ++ byte3 n)) (request 0 .startTime (timeBytes new ++ byte3 n))
        .startTime (timeBytes new ++ byte3 n)) ∧
    State.reset.timeBase.stopped = true ∧
    (let s := { State.reset with timeBase := demo.timeBase };
      InService (ask s 0 .startTime (timeBytes 0 ++ byte3 1)) (request 0 .startTime (timeBytes 0 ++ byte3 1)) .startTime
        (timeBytes 0 ++ byte3 1) ∧ s.timeBase.stopped = false) :=
  ⟨fun _ _ _ _ => inService_reset _ _, rfl, inService_ask ⟨fun _ => by decide, fun _ => by decide⟩, rfl⟩

theorem witness_StopTimeDiscardsOwedAdvances :
    (InService (ask State.reset 0 .stopTime [0]) (request 0 .stopTime [0]) .stopTime [0] ∧
      State.reset.timeBase.stopped = true) ∧
    (let s := { State.reset with timeBase := demo.timeBase };
      InService (ask s 0 .stopTime [0]) (request 0 .stopTime [0]) .stopTime [0] ∧ s.timeBase.stopped = false) :=
  ⟨⟨inService_reset _ _, rfl⟩, inService_ask ⟨fun _ => by decide, fun _ => by decide⟩, rfl⟩

theorem witness_HoldsAndTheirRelease :
    InService (ask State.reset 0 .holdTime [0]) (request 0 .holdTime [0]) .holdTime [0] ∧
    InService (ask State.reset 0 .releaseTime [0]) (request 0 .releaseTime [0]) .releaseTime [0] ∧
    ∀ policy : Policy, InService (ask State.reset 0 .setReleasePolicy (byte1 policy.code))
      (request 0 .setReleasePolicy (byte1 policy.code)) .setReleasePolicy (byte1 policy.code) :=
  ⟨inService_reset _ _, inService_reset _ _, fun _ => inService_reset _ _⟩

theorem witness_RefclkEdgesCountAdvances :
    (let b := { demo.timeBase with phase := 8 };
      b.stopped = false ∧ b.phase + 1 < b.prescaler) ∧
    (let b := { demo.timeBase with owed := 65534 };
      b.stopped = false ∧ b.phase + 1 = b.prescaler ∧ b.owed < 65535) ∧
    (let b := { demo.timeBase with owed := 65535 };
      b.stopped = false ∧ b.phase + 1 = b.prescaler ∧ 65535 ≤ b.owed) ∧
    State.reset.timeBase.stopped = true := by decide

/-- An advance, with a record due; and HELD, nothing owed, and an offer at its last tick. -/
theorem witness_AdvanceExpiresTheRecordsDue :
    (let s := { demo with tableTime := 1099, offers := [] };
      tbState s.timeBase = .running ∧ 0 < s.timeBase.owed ∧ (∀ o ∈ s.offers, ahead s.tableTime o.lapse ≠ 1) ∧
        (s.schedule.filter fun e => decide (e.due = s.tableTime + 1)).map Entry.slot = [0]) ∧
    tbState { demo.timeBase with lineHold := true } ≠ .running ∧ { demo.timeBase with owed := 0 }.owed = 0 ∧
    ∃ o ∈ demo.offers, ahead 1009 o.lapse = 1 := by decide

/-- A record that expires at 1000 in each mode, the SQUARE record in each half, reported already and not. -/
theorem witness_ExpiryFollowsTheMode :
    ((demo.schedule.filter fun e => decide (e.due = { demo with tableTime := 1100 }.tableTime)).map Entry.slot = 0 :: []) ∧
    (∀ x, x.unacknowledged = false → 402 ∉ ((scene .low x).attn.get 1).set) ∧
    (∀ mode : Mode, mode = .single ∨ mode = .watch ∨ mode = .cyclic →
      ∃ x, Stands x ∧ x.mode = mode ∧ x.dueTime = some (scene .low x).tableTime ∧ x.unacknowledged = true) ∧
    (∃ x, Stands x ∧ x.mode = .delayed ∧ x.dueTime = some (scene .low x).tableTime ∧ x.unacknowledged = false) ∧
    ∀ phase, ∃ x, Stands x ∧ x.mode = .square ∧ x.dueTime = some (scene .low x).tableTime ∧ x.phase = some phase ∧
      x.unacknowledged = false := by
  refine ⟨by decide, fun x h => by simp [scene, h], fun mode h => ?_, ?_, fun phase => ?_⟩
  · refine ⟨{ plain with
      mode := mode, state := .armed, dueTime := some 1000, unacknowledged := true, firstFire := some 9, lastFire := some 9,
      overrun := 255 }, stands_of ?_, rfl, rfl, rfl⟩
    rcases h with rfl | rfl | rfl <;> decide
  · exact ⟨{ plain with mode := .delayed, state := .armed, dueTime := some 1000, triggerBinding := some 4 },
      stands_of (by decide), rfl, rfl, rfl⟩
  · refine ⟨{ plain with mode := .square, state := .armed, dueTime := some 1000, phase := some phase }, stands_of ?_,
      rfl, rfl, rfl, rfl⟩
    cases phase <;> decide

/-! ### Witnesses: supervision and purge -/

/-- A sum of 2048, and one of 2049. -/
theorem witness_QuotaAndControlRequests :
    (∀ (k : Kind) args, InService (ask State.reset 0 k args) (request 0 k args) k args) ∧
    (let q := State.reset.quota.set 3 512;
      q.get 0 + q.get 1 + q.get 2 + q.get 3 = 2048) ∧
    (let q := State.reset.quota.set 3 513;
      q.get 0 + q.get 1 + q.get 2 + q.get 3 = 2049) ∧ (3 : Client) ≠ 0 :=
  ⟨inService_reset, by decide, by decide, by decide⟩

theorem witness_PurgeClientMarksTheClient :
    ∀ c : Client, InService (ask demo 0 .purgeClient (byte1 c.val)) (request 0 .purgeClient (byte1 c.val)) .purgeClient
        (byte1 c.val) ∧ demo.purging.get c = decide (c = 3) :=
  fun c => ⟨inService_ask ⟨fun _ => by decide, fun _ => by decide⟩, by revert c; decide⟩

theorem witness_MarkingEffects : OfferTableLaw demo ∧ ∃ o ∈ demo.offers, o.record = 0 ∧ o.giver = 1 ∧ o.receiver = 2 :=
  ⟨demo_offerTableLaw, by decide⟩

theorem recordAt_cursor (s : State) (c : Option SlotId) (i : SlotId) : recordAt { s with cursor := c } i = recordAt s i :=
  rfl

/-- The scan at a record of the client, at the FREE slot 5, and at slot 2047. -/
theorem witness_PurgeStepExaminesOneSlot :
    demo.purgeQueue = [3] ∧ (∀ x, recordAt demo 5 = some x → x.owner ≠ 3) ∧ demo.cursor.getD 0 = 5 ∧
    (let s := { demo with purgeQueue := [1], cursor := none };
      s.purgeQueue = [1] ∧ s.cursor.getD 0 = 0 ∧ ∃ x, recordAt s 0 = some x ∧ x.owner = 1) ∧
    let s := { demo with cursor := some 2047 };
      (s.cursor.getD 0).val = 2047 ∧ ∀ x, recordAt s 2047 = some x → x.owner ≠ 3 := by
  refine ⟨rfl, fun x h => ?_, rfl, ⟨rfl, rfl, demoRec, by decide +kernel, rfl⟩, rfl, fun x h => ?_⟩
  · rw [demo_recordAt] at h; simp at h
  · rw [recordAt_cursor, demo_recordAt] at h; simp at h

/-! ### Witnesses: ports -/

/-- A transfer that RESET ended on a READY port; and one that began in RESET, with the port in RESET and READY again. -/
theorem witness_PortResetAndRelease :
    ((demo.ports.get 3).assertTaken = false ∧ demo.purging.get 3 = true) ∧
    ((demo.ports.get 2).assertTaken = false ∧ demo.purging.get 2 = false) ∧
    ((resetPort (demo.ports.get 2)).assertTaken = true ∧ (resetPort (demo.ports.get 2)).state = .reset) ∧
    (∃ t, ((State.afterReset { quietPins with sel := quietPins.sel.set 1 .low }).ports.get 1).transfer = some t ∧
      t.ended = true) ∧
    ∀ state : PortState, ∃ q : Port, q.state = state ∧
      ({ demo with ports := demo.ports.set 1 q }.ports.get 1).transfer =
        some { status := none, ended := false, chosen := none } :=
  ⟨by decide +kernel, by decide +kernel, by decide +kernel, ⟨_, rfl, rfl⟩, fun state =>
    ⟨{ demo.ports.get 1 with state := state, transfer := some { status := none, ended := false, chosen := none } }, rfl,
      by simp⟩⟩

/-- Port 2 of `demo`, READY with a frame and a response waiting; and a port 1 asserted across RESET. -/
theorem witness_TransferBeginsWithTheStatus :
    (PortLaw demo 2 ∧ (demo.ports.get 2).transfer = none ∧ (demo.ports.get 2).state = .ready) ∧
    let s := State.afterReset { quietPins with prst := quietPins.prst.set 1 .low };
      (PortLaw s 1 ∧ (s.ports.get 1).transfer = none ∧ (s.ports.get 1).state = .reset) := by
  refine ⟨⟨demo_portsLaw.1 2, by decide, by decide⟩, ?_, by decide, by decide⟩
  refine ⟨by decide, by decide, fun body h => absurd h ?_, by decide, by decide, fun _ => ?_⟩
  · exact List.not_mem_nil
  exact ⟨by decide, by decide, by decide, by decide, by decide, fun t h => by cases h⟩

/-- `demo` with SELn of port 2 low and `q` as its queues: a transfer that began with the port READY. -/
def linked (chosen : Option (Option (List Byte))) (inbound outbound : List (List Byte)) : State :=
  { demo with
    ports :=
      demo.ports.set 2
        { demo.ports.get 2 with
          inbound := inbound, outbound := outbound
          transfer := some { status := some (0x40, 0), ended := false, chosen := chosen } } }

theorem linked_transfer (chosen : Option (Option (List Byte))) (inbound outbound : List (List Byte)) :
    ((linked chosen inbound outbound).ports.get 2).transfer =
      some { status := some (0x40, 0), ended := false, chosen := chosen } := by
  simp [linked]

theorem malformed_cons {len : Byte} {rest : List Byte}
    (h : (decide (len.toNat < 3) || decide (24 < len.toNat) || decide (rest.length < len.toNat + 1)
      || decide (crc (len :: rest.take len.toNat) ≠ rest.getD len.toNat 0)) = true) : MalformedFrame (len :: rest) := by
  simpa [MalformedFrame, or_assoc] using h

/-- No byte at all, the lengths at which a frame stops being well formed, a frame cut short, and a CRC that does not match. -/
theorem witness_MalformedFrame :
    MalformedFrame [] ∧ MalformedFrame [2, 1, 1, 0] ∧ MalformedFrame (25 :: List.replicate 26 0) ∧
    MalformedFrame [3, 0x20, 7, 0] ∧ MalformedFrame [3, 0x20, 7, 0, crc [3, 0x20, 7, 0] + 1] :=
  ⟨trivial, malformed_cons (by decide), malformed_cons (by decide), malformed_cons (by decide),
    malformed_cons (by decide +kernel)⟩

/-- The shortest body and the longest, on a port with 4 frames queued, with a reservation count of 8, and with room. -/
theorem witness_SubmitIsJudgedAtTheRise :
    (∀ inbound outbound, ((linked none inbound outbound).ports.get 2).transfer =
      some { status := some (0x40, 0), ended := false, chosen := none }) ∧
    (RequestBody [0x20, 7, 0] ∧ RequestBody (List.replicate 24 0)) ∧
    4 ≤ ((linked none (List.replicate 4 [0x20, 7, 0]) []).ports.get 2).inbound.length ∧
    reservation (linked none [[0x20, 7, 0]] (List.replicate 7 [0x20, 7, 0, 0])) 2 = 8 ∧
    (((linked none (List.replicate 3 [0x20, 7, 0]) (List.replicate 4 [0x20, 7, 0, 0])).ports.get 2).inbound.length = 3 ∧
      reservation (linked none (List.replicate 3 [0x20, 7, 0]) (List.replicate 4 [0x20, 7, 0, 0])) 2 = 7) := by
  refine ⟨linked_transfer none, ?_⟩
  unfold RequestBody
  decide +kernel

/-- The code recognised; no response; and a response whose frame of 6 bytes follows the 2 of the status, sent whole in 8. -/
theorem witness_FetchRemovesAResponseSentWhole :
    (∀ chosen, ((linked chosen [] [[0x20, 7, 0, 0]]).ports.get 2).transfer =
      some { status := some (0x40, 0), ended := false, chosen := chosen }) ∧
    ([0x20, 7, 0, (0 : Byte)].length + 4 ≤ 8 ∧ ¬ [0x20, 7, 0, (0 : Byte)].length + 4 ≤ 7) :=
  ⟨fun chosen => linked_transfer chosen [] _, by decide, by decide⟩

/-- A transfer of no complete byte, and one whose second byte is a code; and one that began in RESET. -/
theorem witness_IgnoredTransferChangesNothing :
    ((linked none [] []).ports.get 2).transfer = some { status := some (0x40, 0), ended := false, chosen := none } ∧
    (∀ mosi ∈ [[], [0x5B, (0xA5 : Byte)]], mosi.head? ≠ some 0xA5 ∧ mosi.head? ≠ some 0x5A) ∧
    ∃ q : Port, ({ demo with ports := demo.ports.set 1 q }.ports.get 1).transfer =
      some { status := none, ended := false, chosen := none } :=
  ⟨linked_transfer none [] [], by decide,
    { demo.ports.get 1 with transfer := some { status := none, ended := false, chosen := none } }, by simp⟩

/-- Port 2 holds the only frame of `demo`, first after port 3 in cyclic order among those that hold one. -/
theorem witness_SelectionIsCyclic :
    (let s := { demo with executor := none };
      s.executor = none ∧ (s.ports.get 2).inbound = [0x20, 1, 0] :: [] ∧
        ∀ q : Client, (q - s.lastServed - 1).val < ((2 : Client) - s.lastServed - 1).val → (s.ports.get q).inbound = []) ∧
    demo.executor ≠ none ∧ ∀ p, (State.reset.ports.get p).inbound = [] := by decide +kernel

theorem witness_FramesAndHandlesReadBack :
    RequestBody [0x20, 7, 0] ∧ RequestBody (List.replicate 24 0xFF) ∧ (handleOf 65535).value = 65535 := by
  unfold RequestBody
  decide

end Sys2Proof.Tests
end

section
/-! SUPPORT. When the ATTN lines follow R124, and what a recomputation, a removal from a set and the end of an offer leave of
that. -/

namespace Sys2Proof

/-- A part of the entries that a write leaves as it was reads the same everywhere. -/
theorem Table.apply_get_set {α β : Type} {n : Nat} {t : Table α n} {i : Fin n} {a : α} (f : α → β)
    (h : f a = f (t.get i)) (j : Fin n) : f ((t.set i a).get j) = f (t.get j) := by
  rw [Table.get_set]
  split
  · next hj => rw [h, hj]
  · rfl

end Sys2Proof

namespace Sys2Proof.Machine

open Sys2Proof.Safety

/-! ### Recomputed lines and sets -/

/-- Whether ATTNc is to be asserted depends on the client's set and mask, on the priorities of the set's records, and on
whether an offer comes in. -/
theorem attnAsserts_congr {s t : State} {c : Client} (hset : (t.attn.get c).set = (s.attn.get c).set)
    (hmask : (t.attn.get c).mask = (s.attn.get c).mask)
    (hprio : ∀ j ∈ (s.attn.get c).set, priorityAt t j = priorityAt s j)
    (hoffer : incomingOffer t c = incomingOffer s c) : attnAsserts t c = attnAsserts s c := by
  have hany : (s.attn.get c).set.any (fun j => decide ((s.attn.get c).mask ≤ priorityAt t j)) =
      (s.attn.get c).set.any fun j => decide ((s.attn.get c).mask ≤ priorityAt s j) := by
    rw [Bool.eq_iff_iff, List.any_eq_true, List.any_eq_true]
    exact exists_congr fun j => and_congr_right fun hj => by rw [hprio j hj]
  rw [attnAsserts, attnAsserts, hset, hmask, hoffer, hany]

theorem priorityAt_congr {s t : State} {j : SlotId} (h : recordAt t j = recordAt s j) :
    priorityAt t j = priorityAt s j := by
  rw [priorityAt, priorityAt, h]

theorem incomingOffer_congr {s t : State} (h : t.offers = s.offers) (c : Client) :
    incomingOffer t c = incomingOffer s c := by
  rw [incomingOffer, incomingOffer, h]

theorem refreshAttn_get_set (s : State) (c d : Client) :
    ((refreshAttn s c).attn.get d).set = (s.attn.get d).set :=
  Table.apply_get_set Attn.set (by rfl) d

theorem refreshAttn_get_mask (s : State) (c d : Client) :
    ((refreshAttn s c).attn.get d).mask = (s.attn.get d).mask :=
  Table.apply_get_set Attn.mask (by rfl) d

/-- A recomputation of one line does not change what any line is to be. -/
@[simp] theorem attnAsserts_refreshAttn (s : State) (c d : Client) :
    attnAsserts (refreshAttn s c) d = attnAsserts s d :=
  attnAsserts_congr (refreshAttn_get_set s c d) (refreshAttn_get_mask s c d)
    (fun j _ => priorityAt_congr (recordAt_eq_of_slots (refreshAttn_slots s c) j))
    (incomingOffer_congr (refreshAttn_offers s c) d)

theorem leaveSet_get_set (s : State) (c d : Client) (i : SlotId) :
    ((leaveSet s c i).attn.get d).set =
      if d = c then dropSlot i (s.attn.get d).set else (s.attn.get d).set := by
  rw [leaveSet_attn, Table.get_set]
  split
  · next h => rw [h]
  · rfl

theorem leaveSet_get_mask (s : State) (c d : Client) (i : SlotId) :
    ((leaveSet s c i).attn.get d).mask = (s.attn.get d).mask :=
  Table.apply_get_set Attn.mask (by rfl) d

/-! ### Lines that follow R124 -/

/-- Every ATTN line is as R124 gives it: the last clause of `AttentionLaw`. -/
def LinesFollow (s : State) : Prop := ∀ c, (s.attn.get c).line = attnAsserts s c

theorem linesFollow_of_attentionLaw {s : State} (h : AttentionLaw s) : LinesFollow s := by
  obtain ⟨_, _, _, _, _, _, hline⟩ := h
  exact hline

theorem linesFollow_congr {s t : State} (hslots : t.slots = s.slots) (hattn : t.attn = s.attn)
    (hoffers : t.offers = s.offers) (h : LinesFollow s) : LinesFollow t := by
  intro c
  have ha : attnAsserts t c = attnAsserts s c :=
    attnAsserts_congr (by rw [hattn]) (by rw [hattn])
      (fun j _ => priorityAt_congr (recordAt_eq_of_slots hslots j)) (incomingOffer_congr hoffers c)
  rw [hattn, ha]
  exact h c

/-- After a recomputation of client `c`'s line every line follows, if the others did already. -/
theorem refreshAttn_linesFollow {s : State} {c : Client}
    (h : ∀ d, d ≠ c → (s.attn.get d).line = attnAsserts s d) : LinesFollow (refreshAttn s c) := by
  intro d
  rw [attnAsserts_refreshAttn, refreshAttn_attn, Table.get_set]
  split
  · next hd => rw [hd]
  · next hd => exact h d hd

end Sys2Proof.Machine
end

section
/-! SUPPORT. The eight steps of a retirement (R14), one at a time, and then the whole. -/

namespace Sys2Proof.Machine

open Sys2Proof.Safety

/-! ### Steps 1 to 3: the schedule and the lines -/

/-- The state after steps 1 to 3 of R14: the record is out of the schedule and off its lines. -/
def detached (s : State) (i : SlotId) (r : Rec) : State :=
  retireTrigger (retireOutput (if r.state = .armed then { s with schedule := removeEntry i s.schedule } else s) r) i r

theorem retireRecord_eq (s : State) (i : SlotId) (r : Rec) :
    retireRecord s i r = freeSlot (retireOffer (retireAttention (detached s i r) i r) i) i r.owner := rfl

theorem retireOutput_get_evt (s : State) (r : Rec) (k : Line) :
    (retireOutput s r).evt.get k =
      if r.outputBinding = some k then { s.evt.get k with bound := none, driven := (s.evt.get k).idle }
      else s.evt.get k := by
  unfold retireOutput
  cases r.outputBinding with
  | none => rfl
  | some j =>
    by_cases h : k = j
    · simp [h]
    · simp [releaseLine, Table.get_set, h, Ne.symm h]

theorem retireTrigger_get_trg (s : State) (i : SlotId) (r : Rec) (k : Line) :
    (retireTrigger s i r).trg.get k =
      if r.triggerBinding = some k then { s.trg.get k with listeners := dropSlot i (s.trg.get k).listeners }
      else s.trg.get k := by
  unfold retireTrigger
  cases r.triggerBinding with
  | none => rfl
  | some j =>
    by_cases h : k = j
    · simp [h]
    · simp [Table.get_set, h, Ne.symm h]

@[simp] theorem detached_slots (s : State) (i : SlotId) (r : Rec) : (detached s i r).slots = s.slots := by
  unfold detached; rw [retireTrigger_slots, retireOutput_slots]; split <;> rfl
@[simp] theorem detached_freeList (s : State) (i : SlotId) (r : Rec) : (detached s i r).freeList = s.freeList := by
  unfold detached; rw [retireTrigger_freeList, retireOutput_freeList]; split <;> rfl
@[simp] theorem detached_owned (s : State) (i : SlotId) (r : Rec) : (detached s i r).owned = s.owned := by
  unfold detached; rw [retireTrigger_owned, retireOutput_owned]; split <;> rfl
@[simp] theorem detached_attn (s : State) (i : SlotId) (r : Rec) : (detached s i r).attn = s.attn := by
  unfold detached; rw [retireTrigger_attn, retireOutput_attn]; split <;> rfl
@[simp] theorem detached_offers (s : State) (i : SlotId) (r : Rec) : (detached s i r).offers = s.offers := by
  unfold detached; rw [retireTrigger_offers, retireOutput_offers]; split <;> rfl

theorem detached_schedule (s : State) (i : SlotId) (r : Rec) :
    (detached s i r).schedule = if r.state = .armed then removeEntry i s.schedule else s.schedule := by
  unfold detached; rw [retireTrigger_schedule, retireOutput_schedule]; split <;> rfl

theorem detached_get_evt (s : State) (i : SlotId) (r : Rec) (k : Line) :
    (detached s i r).evt.get k =
      if r.outputBinding = some k then { s.evt.get k with bound := none, driven := (s.evt.get k).idle }
      else s.evt.get k := by
  have hevt : (if r.state = .armed then { s with schedule := removeEntry i s.schedule } else s).evt = s.evt := by
    split <;> rfl
  rw [detached, retireTrigger_evt, retireOutput_get_evt, hevt]

theorem detached_get_trg (s : State) (i : SlotId) (r : Rec) (k : Line) :
    (detached s i r).trg.get k =
      if r.triggerBinding = some k then { s.trg.get k with listeners := dropSlot i (s.trg.get k).listeners }
      else s.trg.get k := by
  have htrg : (if r.state = .armed then { s with schedule := removeEntry i s.schedule } else s).trg = s.trg := by
    split <;> rfl
  rw [detached, retireTrigger_get_trg, retireOutput_trg, htrg]

/-! ### Step 4: the attention set -/

@[simp] theorem retireAttention_get_mask (s : State) (i : SlotId) (r : Rec) (c : Client) :
    ((retireAttention s i r).attn.get c).mask = (s.attn.get c).mask := by
  unfold retireAttention
  split
  · rw [refreshAttn_get_mask, leaveSet_get_mask]
  · rfl

/-- The record leaves every set, where the only set it can stand in is its owner's, while it is unacknowledged. -/
theorem retireAttention_get_set {s : State} {i : SlotId} {r : Rec}
    (h : ∀ c, i ∈ (s.attn.get c).set → r.owner = c ∧ r.unacknowledged = true) (c : Client) :
    ((retireAttention s i r).attn.get c).set = dropSlot i (s.attn.get c).set := by
  by_cases hi : i ∈ (s.attn.get c).set
  · obtain ⟨howner, hu⟩ := h c hi
    rw [retireAttention, if_pos hu, refreshAttn_get_set, leaveSet_get_set, if_pos howner.symm]
  · rw [dropSlot_of_not_mem hi, retireAttention]
    split
    · rw [refreshAttn_get_set, leaveSet_get_set, dropSlot_of_not_mem hi, ite_self]
    · rfl

theorem retireAttention_linesFollow {s : State} (h : LinesFollow s) (i : SlotId) (r : Rec) :
    LinesFollow (retireAttention s i r) := by
  unfold retireAttention
  split
  · refine refreshAttn_linesFollow fun d hd => ?_
    have hattn : (leaveSet s r.owner i).attn.get d = s.attn.get d := by
      rw [leaveSet_attn, Table.get_set_of_ne _ _ hd]
    have ha : attnAsserts (leaveSet s r.owner i) d = attnAsserts s d :=
      attnAsserts_congr (by rw [hattn]) (by rw [hattn])
        (fun j _ => priorityAt_congr (recordAt_eq_of_slots (leaveSet_slots _ _ _) j))
        (incomingOffer_congr (leaveSet_offers _ _ _) d)
    rw [hattn, ha]
    exact h d
  · exact h

/-! ### Step 5: the offer -/

theorem mapRecord_generation (s : State) (i j : SlotId) (f : Rec → Rec) :
    ((mapRecord s i f).slots.get j).generation = (s.slots.get j).generation := by
  unfold mapRecord
  split
  · rfl
  · exact Table.apply_get_set Slot.generation (by rfl) j

@[simp] theorem endOffer_generation (s : State) (o : Offer) (j : SlotId) :
    ((endOffer s o).slots.get j).generation = (s.slots.get j).generation := by
  rw [endOffer, refreshAttn_slots, removeOffer, mapRecord_generation]

@[simp] theorem endOffer_get_set (s : State) (o : Offer) (c : Client) :
    ((endOffer s o).attn.get c).set = (s.attn.get c).set := by
  rw [endOffer, refreshAttn_get_set, removeOffer_attn]

@[simp] theorem endOffer_get_mask (s : State) (o : Offer) (c : Client) :
    ((endOffer s o).attn.get c).mask = (s.attn.get c).mask := by
  rw [endOffer, refreshAttn_get_mask, removeOffer_attn]

/-- The priority field outlasts the end of an offer. -/
theorem priorityAt_removeOffer (s : State) (i j : SlotId) : priorityAt (removeOffer s i) j = priorityAt s j := by
  by_cases h : j = i
  · have hrecord : recordAt (removeOffer s i) j = (recordAt s j).map fun r => { r with offered := false } := by
      rw [removeOffer, recordAt_mapRecord, if_pos h, h]
      rfl
    rw [priorityAt, priorityAt, hrecord]
    cases recordAt s j <;> rfl
  · refine priorityAt_congr ?_
    rw [removeOffer, recordAt_mapRecord, if_neg h]
    rfl

/-- With at most one offer for any record, its removal takes an incoming offer from its receiver alone. -/
theorem incomingOffer_removeOffer {s : State} {o : Offer} (hn : (s.offers.map Offer.record).Nodup) (ho : o ∈ s.offers)
    {d : Client} (hd : d ≠ o.receiver) : incomingOffer (removeOffer s o.record) d = incomingOffer s d := by
  rw [incomingOffer, incomingOffer, removeOffer_offers, Bool.eq_iff_iff, List.any_eq_true, List.any_eq_true]
  refine exists_congr fun q => ⟨fun ⟨hq, hr⟩ => ⟨List.mem_of_mem_filter hq, hr⟩, fun ⟨hq, hr⟩ => ⟨?_, hr⟩⟩
  have hne : q.record ≠ o.record := fun e => by
    have hqo : q = o := List.inj_on_of_nodup_map hn hq ho e
    exact hd (by rw [← of_decide_eq_true hr, hqo])
  exact List.mem_filter.2 ⟨hq, by simpa using hne⟩

theorem endOffer_linesFollow {s : State} {o : Offer} (hn : (s.offers.map Offer.record).Nodup) (ho : o ∈ s.offers)
    (h : LinesFollow s) : LinesFollow (endOffer s o) := by
  refine refreshAttn_linesFollow fun d hd => ?_
  have ha : attnAsserts (removeOffer s o.record) d = attnAsserts s d :=
    attnAsserts_congr (by rw [removeOffer_attn]) (by rw [removeOffer_attn])
      (fun j _ => priorityAt_removeOffer s o.record j) (incomingOffer_removeOffer hn ho hd)
  rw [removeOffer_attn, ha]
  exact h d

theorem offerOf_some {s : State} {i : SlotId} {o : Offer} (h : offerOf s i = some o) : o ∈ s.offers ∧ o.record = i :=
  ⟨List.mem_of_find?_eq_some h, by simpa using List.find?_some h⟩

@[simp] theorem retireOffer_generation (s : State) (i j : SlotId) :
    ((retireOffer s i).slots.get j).generation = (s.slots.get j).generation := by
  unfold retireOffer
  split
  · rfl
  · rw [endOffer_generation]

@[simp] theorem retireOffer_get_set (s : State) (i : SlotId) (c : Client) :
    ((retireOffer s i).attn.get c).set = (s.attn.get c).set := by
  unfold retireOffer
  split
  · rfl
  · rw [endOffer_get_set]

@[simp] theorem retireOffer_get_mask (s : State) (i : SlotId) (c : Client) :
    ((retireOffer s i).attn.get c).mask = (s.attn.get c).mask := by
  unfold retireOffer
  split
  · rfl
  · rw [endOffer_get_mask]

theorem retireOffer_offers (s : State) (i : SlotId) :
    (retireOffer s i).offers = s.offers.filter fun o => decide (o.record ≠ i) := by
  unfold retireOffer
  split
  · next h =>
    refine (List.filter_eq_self.2 fun o ho => ?_).symm
    simpa using List.find?_eq_none.1 h o ho
  · next o h =>
    obtain ⟨_, hrecord⟩ := offerOf_some h
    rw [endOffer_offers, hrecord]

theorem retireOffer_linesFollow {s : State} (hn : (s.offers.map Offer.record).Nodup) (h : LinesFollow s) (i : SlotId) :
    LinesFollow (retireOffer s i) := by
  unfold retireOffer
  split
  · exact h
  · next o ho => exact endOffer_linesFollow hn (offerOf_some ho).1 h

/-! ### Steps 6 to 8: the slot -/

theorem freeSlot_generation (s : State) (i j : SlotId) (c : Client) :
    ((freeSlot s i c).slots.get j).generation =
      if j = i then (s.slots.get i).generation + 1 else (s.slots.get j).generation := by
  rw [freeSlot, Table.get_set]
  split <;> rfl

/-- A slot in no attention set can be freed without a recomputation. -/
theorem freeSlot_linesFollow {s : State} {i : SlotId} (hi : ∀ c, i ∉ (s.attn.get c).set) (h : LinesFollow s)
    (owner : Client) : LinesFollow (freeSlot s i owner) := by
  intro c
  have ha : attnAsserts (freeSlot s i owner) c = attnAsserts s c :=
    attnAsserts_congr rfl rfl
      (fun j hj => priorityAt_congr <| by
        have hne : j ≠ i := fun e => hi c (e ▸ hj)
        rw [recordAt_freeSlot, if_neg hne]) rfl
  rw [freeSlot_attn, ha]
  exact h c

/-! ### The whole retirement -/

theorem retireRecord_schedule (s : State) (i : SlotId) (r : Rec) :
    (retireRecord s i r).schedule = if r.state = .armed then removeEntry i s.schedule else s.schedule := by
  rw [retireRecord_eq, freeSlot_schedule, retireOffer_schedule, retireAttention_schedule, detached_schedule]

theorem retireRecord_get_evt (s : State) (i : SlotId) (r : Rec) (k : Line) :
    (retireRecord s i r).evt.get k =
      if r.outputBinding = some k then { s.evt.get k with bound := none, driven := (s.evt.get k).idle }
      else s.evt.get k := by
  rw [retireRecord_eq, freeSlot_evt, retireOffer_evt, retireAttention_evt, detached_get_evt]

theorem retireRecord_get_trg (s : State) (i : SlotId) (r : Rec) (k : Line) :
    (retireRecord s i r).trg.get k =
      if r.triggerBinding = some k then { s.trg.get k with listeners := dropSlot i (s.trg.get k).listeners }
      else s.trg.get k := by
  rw [retireRecord_eq, freeSlot_trg, retireOffer_trg, retireAttention_trg, detached_get_trg]

@[simp] theorem retireRecord_get_mask (s : State) (i : SlotId) (r : Rec) (c : Client) :
    ((retireRecord s i r).attn.get c).mask = (s.attn.get c).mask := by
  rw [retireRecord_eq, freeSlot_attn, retireOffer_get_mask, retireAttention_get_mask, detached_attn]

theorem retireRecord_offers (s : State) (i : SlotId) (r : Rec) :
    (retireRecord s i r).offers = s.offers.filter fun o => decide (o.record ≠ i) := by
  rw [retireRecord_eq, freeSlot_offers, retireOffer_offers, retireAttention_offers, detached_offers]

@[simp] theorem retireRecord_freeList (s : State) (i : SlotId) (r : Rec) :
    (retireRecord s i r).freeList = s.freeList ++ [i] := by
  rw [retireRecord_eq, freeSlot_freeList, retireOffer_freeList, retireAttention_freeList, detached_freeList]

@[simp] theorem retireRecord_owned (s : State) (i : SlotId) (r : Rec) :
    (retireRecord s i r).owned = s.owned.set r.owner (s.owned.get r.owner - 1) := by
  rw [retireRecord_eq, freeSlot_owned, retireOffer_owned, retireAttention_owned, detached_owned]

theorem retireRecord_generation (s : State) (i j : SlotId) (r : Rec) :
    ((retireRecord s i r).slots.get j).generation =
      if j = i then (s.slots.get i).generation + 1 else (s.slots.get j).generation := by
  rw [retireRecord_eq, freeSlot_generation, retireOffer_generation, retireOffer_generation, retireAttention_slots,
    detached_slots]

/-- The slot is FREE at its next generation, and every other slot is as it was. -/
theorem retireRecord_get_slots (s : State) (i j : SlotId) (r : Rec) :
    (retireRecord s i r).slots.get j =
      if j = i then { generation := (s.slots.get i).generation + 1, record := none } else s.slots.get j := by
  have hrecord : ((retireRecord s i r).slots.get j).record = if j = i then none else (s.slots.get j).record :=
    recordAt_retireRecord s i j r
  have hgeneration := retireRecord_generation s i j r
  cases hslot : (retireRecord s i r).slots.get j with
  | mk g x =>
    rw [hslot] at hrecord hgeneration
    subst hrecord hgeneration
    split <;> rfl

/-- Under the attention law an entry of an attention set is an unacknowledged record of the set's client. -/
theorem owner_of_mem_set {s : State} (h : AttentionLaw s) {i : SlotId} {x : Rec} (hx : recordAt s i = some x)
    {c : Client} (hi : i ∈ (s.attn.get c).set) : x.owner = c ∧ x.unacknowledged = true := by
  obtain ⟨_, _, _, hmem, _, _, _⟩ := h
  obtain ⟨y, hy, howner, hu⟩ := (hmem c i).1 hi
  cases hx.symm.trans hy
  exact ⟨howner, hu⟩

theorem retireRecord_get_set {s : State} (h : AttentionLaw s) {i : SlotId} {x : Rec} (hx : recordAt s i = some x)
    (c : Client) : ((retireRecord s i x).attn.get c).set = dropSlot i (s.attn.get c).set := by
  have hmem : ∀ d, i ∈ ((detached s i x).attn.get d).set → x.owner = d ∧ x.unacknowledged = true := fun d hd =>
    owner_of_mem_set h hx (by rwa [detached_attn] at hd)
  rw [retireRecord_eq, freeSlot_attn, retireOffer_get_set, retireAttention_get_set hmem, detached_attn]

/-- Every ATTN line follows R124 after a retirement, though only the owner's and the receiver's are recomputed. -/
theorem retireRecord_linesFollow {s : State} (h : AttentionLaw s) {i : SlotId} {x : Rec} (hx : recordAt s i = some x) :
    LinesFollow (retireRecord s i x) := by
  have hdetached : LinesFollow (detached s i x) :=
    linesFollow_congr (detached_slots s i x) (detached_attn s i x) (detached_offers s i x) (linesFollow_of_attentionLaw h)
  have hnodup : ((retireAttention (detached s i x) i x).offers.map Offer.record).Nodup := by
    obtain ⟨_, ⟨hoffers, _⟩, _⟩ := h
    rwa [retireAttention_offers, detached_offers]
  refine freeSlot_linesFollow (fun c hc => ?_)
    (retireOffer_linesFollow hnodup (retireAttention_linesFollow hdetached i x) i) x.owner
  have hset := retireRecord_get_set h hx c
  rw [retireRecord_eq, freeSlot_attn] at hset
  rw [hset] at hc
  exact (mem_dropSlot.1 hc).2 rfl

/-- Blocks a retirement does not name stand. -/
theorem retireRecord_frame (s : State) (i : SlotId) (r : Rec) :
    retireRecord s i r =
      { s with
        slots := (retireRecord s i r).slots, freeList := (retireRecord s i r).freeList,
        owned := (retireRecord s i r).owned, schedule := (retireRecord s i r).schedule,
        trg := (retireRecord s i r).trg, evt := (retireRecord s i r).evt, attn := (retireRecord s i r).attn,
        offers := (retireRecord s i r).offers } := by
  rw [← retireRecord_timeBase s i r, ← retireRecord_tableTime s i r, ← retireRecord_ports s i r,
    ← retireRecord_executor s i r, ← retireRecord_lastServed s i r, ← retireRecord_control s i r,
    ← retireRecord_quota s i r, ← retireRecord_purging s i r, ← retireRecord_purgeQueue s i r,
    ← retireRecord_cursor s i r, ← retireRecord_freeDraws s i r, ← retireRecord_pending s i r]

end Sys2Proof.Machine
end

section
/-! CERTIFICATE. The statements about records and handles (01_records_and_handles.md). -/

namespace Sys2Proof.Claims

open Sys2Proof.Machine Sys2Proof.Safety

/-! ### Retirement -/

/-- Settles O23: each of the eight effects is read off the steps of `retireRecord`. The attention law is needed for the sets,
which hold the record only at its owner, and for the ATTN lines: a line that is not recomputed follows R124 because neither its
set nor its incoming offers change. -/
theorem retirementEffects : Obligations.RetirementEffects := by
  intro s i x hlaw hx
  refine ⟨retireRecord_schedule s i x, retireRecord_get_evt s i x, retireRecord_get_trg s i x, fun c => ?_,
    retireRecord_offers s i x, fun j => retireRecord_get_slots s i j x, retireRecord_freeList s i x, fun c => ?_,
    retireRecord_frame s i x⟩
  · exact ⟨retireRecord_get_set hlaw hx c, retireRecord_get_mask s i x c, retireRecord_linesFollow hlaw hx c⟩
  · rw [retireRecord_owned, Table.get_set]
    split
    · next h => rw [h]
    · rfl

/-! ### CREATE -/

/-- A mode's code names it (Table 10-8). -/
theorem modeOf_byte (mode : Mode) : modeOf (BitVec.ofNat 8 mode.code).toNat = some mode := by cases mode <;> rfl

/-- A number below `n` reads back from its byte (R173). -/
theorem below_byte {n : Nat} (hn : n ≤ 256) (v : Fin n) : below n (BitVec.ofNat 8 v.val).toNat = some v := by
  have hv : (BitVec.ofNat 8 v.val).toNat = v.val := by
    rw [BitVec.toNat_ofNat]
    exact Nat.mod_eq_of_lt (by omega)
  simp [below, hv]

/-- A yes/no argument reads back from its byte (R181). -/
theorem shareOf_byte (b : Bool) : shareOf (if b then (1 : Byte) else 0).toNat = some b := by cases b <;> rfl

theorem tag_reads (tag : BitVec 16) :
    BitVec.ofNat 16 ((BitVec.ofNat 8 (tag.toNat / 256)).toNat * 256 + (BitVec.ofNat 8 tag.toNat).toNat) = tag := by
  rw [byte2_reads tag.isLt, BitVec.ofNat_toNat, BitVec.setWidth_eq]

/-- The argument bytes of a CREATE (Table 10-1). -/
def createArgs (mode : Mode) (period : Nat) (priority : Fin 4) (tag : BitVec 16) (share : Bool) : List Byte :=
  byte1 mode.code ++ byte3 period ++ byte1 priority.val ++ byte2 tag.toNat ++ yesNo share

/-- A CREATE whose arguments are in range is judged by its record rule, with every argument as it was sent (R12, R173). -/
theorem createAnswer_eq {s : State} {r : Serving} {mode : Mode} {period : Nat} {priority : Fin 4} {tag : BitVec 16}
    {share : Bool} {kind seq : Byte} (hb : r.body = kind :: seq :: createArgs mode period priority tag share)
    (hp : PeriodInRange mode period) :
    createAnswer s r = createRecord s r (newRecord r.port mode period priority tag share) := by
  obtain ⟨hpos, hmax, hlong⟩ := hp
  have hmode : modeOf (arg1 r.body 2) = some mode := by rw [hb]; exact modeOf_byte mode
  have hperiod : arg3 r.body 3 = period := by rw [hb]; exact byte3_reads (Nat.lt_succ_of_le hmax)
  have hpriority : below 4 (arg1 r.body 6) = some priority := by rw [hb]; exact below_byte (by decide) priority
  have htag : BitVec.ofNat 16 (arg2 r.body 7) = tag := by rw [hb]; exact tag_reads tag
  have hshare : shareOf (arg1 r.body 9) = some share := by rw [hb]; exact shareOf_byte share
  have hrange : ¬ (period = 0 ∨ periodTooShort mode period = true) := by
    rw [hlong]
    simp only [Bool.false_eq_true, or_false]
    omega
  rw [createAnswer, hmode, hpriority, hshare, hperiod, htag]
  exact if_neg hrange

/-- A CREATE with arguments in range is answered as its record rule says. -/
theorem exec_create_eq {s : State} {r : Serving} {mode : Mode} {period : Nat} {priority : Fin 4} {tag : BitVec 16}
    {share : Bool} (hs : InService s r .create (createArgs mode period priority tag share))
    (hp : PeriodInRange mode period) :
    exec .create s = .next (answered s r (createRecord s r (newRecord r.port mode period priority tag share))) := by
  have hexec : exec .create s = .next (takeRequest s .create createAnswer) := rfl
  have hlen : (createArgs mode period priority tag share).length = argumentBytes r.body .create := rfl
  have ⟨_, ⟨seq, hb⟩, _⟩ := hs
  rw [hexec, takeRequest_inService hs hlen, createAnswer_eq hb hp]

theorem createRecord_of_quota {s : State} {r : Serving} (h : s.quota.get r.port ≤ s.owned.get r.port) (new : Rec) :
    createRecord s r new = .refuse .quota := by
  rw [createRecord, if_pos h]

theorem createRecord_of_full {s : State} {r : Serving} (h : s.owned.get r.port < s.quota.get r.port)
    (hfree : s.freeList = []) (new : Rec) : createRecord s r new = .refuse .tableFull := by
  rw [createRecord, if_neg (Nat.not_le.2 h), hfree]

/-- The slot at the head of the free list is filled (R13). -/
theorem createRecord_of_free {s : State} {r : Serving} (h : s.owned.get r.port < s.quota.get r.port) {i : SlotId}
    {rest : List SlotId} (hfree : s.freeList = i :: rest) (new : Rec) :
    createRecord s r new =
      .accept .ok (handleBytes (handleAt s i))
        { s with
          freeList := rest
          slots := slotsWith s i new
          owned := s.owned.set r.port (s.owned.get r.port + 1) } := by
  rw [createRecord, if_neg (Nat.not_le.2 h), hfree]
  rfl

/-- Settles O21: the arguments read back as they were sent, and the three clauses are the three branches of `createRecord`. -/
theorem createFillsTheHeadSlot : Obligations.CreateFillsTheHeadSlot := by
  intro s r mode period priority tag share hs hp
  have hexec := exec_create_eq hs hp
  refine ⟨fun hquota => ?_, fun hroom hfree => ?_, fun i rest hroom hfree => ?_⟩
  · rw [createRecord_of_quota hquota] at hexec
    exact hexec
  · rw [createRecord_of_full hroom hfree] at hexec
    exact hexec
  · rw [createRecord_of_free hroom hfree] at hexec
    exact hexec

end Sys2Proof.Claims
end

section
/-! SUPPORT. The time base: when it is in each of its states, and what a release makes of the owed count. -/

namespace Sys2Proof.Machine

/-! ### The time-base state (R23) -/

theorem tbState_eq_stopped {t : TimeBase} : tbState t = .stopped ↔ t.stopped = true := by
  rw [tbState]
  split_ifs with hs <;> simp [hs]

theorem tbState_eq_held {t : TimeBase} :
    tbState t = .held ↔ t.stopped = false ∧ (t.requestHold = true ∨ t.lineHold = true) := by
  rw [tbState, ← Bool.or_eq_true]
  split_ifs with hs hh
  · simp [hs]
  · simp [hs, hh]
  · simp [hs, hh]

theorem tbState_eq_running {t : TimeBase} :
    tbState t = .running ↔ t.stopped = false ∧ t.requestHold = false ∧ t.lineHold = false := by
  rw [tbState, ← Bool.or_eq_false_iff]
  split_ifs with hs hh
  · simp [hs]
  · simp [hs, hh]
  · simp [hs, hh]

/-- The code of the time-base state, read off the stopped flag and the hold sources (R23, Table 10-8). -/
theorem tbByte_eq (t : TimeBase) :
    tbByte t = [if t.stopped = true then 0 else if t.requestHold = true ∨ t.lineHold = true then 2 else 1] := by
  rw [tbByte, tbState]
  simp only [Bool.or_eq_true]
  split_ifs <;> rfl

/-! ### Releases (R33) -/

/-- A release touches the owed count alone, and only under SLIP. -/
theorem release_eq (old new : TimeBase) :
    release old new =
      { new with
        owed := if tbState old = .held ∧ tbState new = .running ∧ new.policy = .slip then 0 else new.owed } := by
  rw [release]
  by_cases h : tbState old = .held ∧ tbState new = .running
  · obtain ⟨hold, hnew⟩ := h
    obtain ⟨_, _, _, _, _, _, _, policy⟩ := new
    cases policy <;> simp [hold, hnew]
  · have hn : ¬ (tbState old = .held ∧ tbState new = .running ∧ new.policy = .slip) :=
      fun ⟨hold, hnew, _⟩ => h ⟨hold, hnew⟩
    rw [if_neg h, if_neg hn]

/-- Clearing the request hold is a release when it is the last hold source and the stopped flag is clear. -/
theorem release_requestHold (b : TimeBase) :
    release b { b with requestHold := false } =
      { b with
        requestHold := false
        owed :=
          if b.stopped = false ∧ b.requestHold = true ∧ b.lineHold = false ∧ b.policy = .slip then 0 else b.owed } := by
  have hiff : (tbState b = .held ∧ tbState { b with requestHold := false } = .running ∧ b.policy = .slip) ↔
      (b.stopped = false ∧ b.requestHold = true ∧ b.lineHold = false ∧ b.policy = .slip) := by
    rw [tbState_eq_held, tbState_eq_running]
    constructor
    · rintro ⟨⟨hs, hh⟩, ⟨_, _, hl⟩, hp⟩
      exact ⟨hs, hh.resolve_right (Bool.eq_false_iff.1 hl), hl, hp⟩
    · rintro ⟨hs, hq, hl, hp⟩
      exact ⟨⟨hs, .inl hq⟩, ⟨hs, rfl, hl⟩, hp⟩
  simp only [release_eq, hiff]

/-- Clearing the line hold is a release when it is the last hold source and the stopped flag is clear. -/
theorem release_lineHold (b : TimeBase) :
    release b { b with lineHold := false } =
      { b with
        lineHold := false
        owed :=
          if b.stopped = false ∧ b.requestHold = false ∧ b.lineHold = true ∧ b.policy = .slip then 0 else b.owed } := by
  have hiff : (tbState b = .held ∧ tbState { b with lineHold := false } = .running ∧ b.policy = .slip) ↔
      (b.stopped = false ∧ b.requestHold = false ∧ b.lineHold = true ∧ b.policy = .slip) := by
    rw [tbState_eq_held, tbState_eq_running]
    constructor
    · rintro ⟨⟨hs, hh⟩, ⟨_, hq, _⟩, hp⟩
      exact ⟨hs, hq, hh.resolve_left (Bool.eq_false_iff.1 hq), hp⟩
    · rintro ⟨hs, hq, hl, hp⟩
      exact ⟨⟨hs, .inr hl⟩, ⟨hs, hq, rfl⟩, hp⟩
  simp only [release_eq, hiff]

/-! ### START-TIME and STOP-TIME (R36 to R38) -/

theorem startTimeAnswer_eq {s : State} {r : Serving} {n : Nat} (hn : arg3 r.body 6 = n) (hpos : 1 ≤ n)
    (hmax : n ≤ 65536) :
    startTimeAnswer s r =
      if s.timeBase.stopped = false then .refuse .wrongState
      else
        .accept .ok (tbByte (startTime s (BitVec.ofNat 32 (arg4 r.body 2)) n).timeBase)
          (startTime s (BitVec.ofNat 32 (arg4 r.body 2)) n) := by
  have hrange : ¬ (n = 0 ∨ Config.maxPrescaler < n) := by
    simp only [Config.maxPrescaler]
    omega
  have hiff : tbState s.timeBase ≠ .stopped ↔ s.timeBase.stopped = false := by
    rw [ne_eq, tbState_eq_stopped, Bool.not_eq_true]
  rw [startTimeAnswer, hn, if_neg hrange]
  simp only [hiff]

theorem stopTimeAnswer_eq (s : State) (r : Serving) :
    stopTimeAnswer s r =
      if s.timeBase.stopped = true then .refuse .wrongState
      else .accept .ok [0] { s with timeBase := stopTime s.timeBase } := by
  simp only [stopTimeAnswer, tbState_eq_stopped]
  rfl

end Sys2Proof.Machine
end

section
/-! CERTIFICATE. The statements about table time (02_table_time.md). -/

namespace Sys2Proof.Claims

open Sys2Proof.Machine

/-! ### Answers -/

/-- A request that its rule accepts is answered so. -/
theorem answers_of_accept {c : Instr} {s t : State} {r : Serving} {k : Kind} {args payload : List Byte}
    {act : State → Serving → Answer} {code : ResultCode} (hs : InService s r k args)
    (hl : args.length = argumentBytes r.body k) (hc : exec c s = .next (takeRequest s k act))
    (ha : act s r = .accept code payload t) : Answers c s r code payload t := by
  rw [Answers, hc, takeRequest_inService hs hl, ha, answered]

/-- A request that its rule refuses is answered with the same code. -/
theorem refuses_of_refuse {c : Instr} {s : State} {r : Serving} {k : Kind} {args : List Byte}
    {act : State → Serving → Answer} {code : ResultCode} (hs : InService s r k args)
    (hl : args.length = argumentBytes r.body k) (hc : exec c s = .next (takeRequest s k act))
    (ha : act s r = .refuse code) : Refuses c s r code := by
  rw [Refuses, Answers, hc, takeRequest_inService hs hl, ha, answered]

/-! ### Requests that only read -/

/-- The purge state goes on the wire as a yes/no item does (Table 10-8, R181). -/
theorem byte1_purgeCode (b : Bool) : byte1 (purgeCode b) = yesNo b := by cases b <;> rfl

theorem clientStatus_eq (s : State) (c : Client) :
    clientStatus s c =
      byte2 (s.quota.get c) ++ byte2 (s.owned.get c) ++ yesNo (s.purging.get c) ++ yesNo (s.control.get c) := by
  rw [clientStatus, byte1_purgeCode]

/-- Settles O43: each of the three answers is accepted with the state as it was. What LIST-OFFERS lists and what it leaves over
are counted from the eight it may list at most. -/
theorem readingRequestsChangeNothing : Obligations.ReadingRequestsChangeNothing := by
  intro s r pad
  refine ⟨fun hs => ?_, fun hs => answers_of_accept (act := readTimeAnswer) hs rfl rfl rfl, fun hs => ?_⟩
  · refine answers_of_accept (act := listOffersAnswer) hs rfl rfl ?_
    have hleft (n : Nat) : n - min 8 n = n - 8 := by omega
    simp only [listOffersAnswer, incomingOffers, Config.listLimit, List.length_take, hleft]
    rfl
  · refine answers_of_accept (act := deviceStatusAnswer) hs rfl rfl ?_
    simp only [deviceStatusAnswer, clientStatus_eq]

/-! ### START-TIME and STOP-TIME -/

/-- The table time that leads a request's arguments reads back (R180). -/
theorem arg4_timeBytes {kind seq : Byte} (t : Time) (rest : List Byte) :
    arg4 (kind :: seq :: (timeBytes t ++ rest)) 2 = t.toNat := byte4_reads t.isLt

/-- The prescaler that follows a table time reads back (R180). -/
theorem arg3_after_timeBytes {kind seq : Byte} (t : Time) {n : Nat} (h : n < 16777216) :
    arg3 (kind :: seq :: (timeBytes t ++ byte3 n)) 6 = n := byte3_reads h

/-- Settles O44: table time and prescaler read back as they were sent, and the rest is `startTime`, whose rebase adds one
difference to every deadline. -/
theorem startTimeRebasesEveryDeadline : Obligations.StartTimeRebasesEveryDeadline := by
  intro s r new n hpos hmax hs
  have ⟨_, ⟨seq, hb⟩, _⟩ := hs
  have hn : arg3 r.body 6 = n := by rw [hb]; exact arg3_after_timeBytes new (by omega)
  have hnew : BitVec.ofNat 32 (arg4 r.body 2) = new := by
    rw [hb, arg4_timeBytes, BitVec.ofNat_toNat, BitVec.setWidth_eq]
  have hanswer := startTimeAnswer_eq (s := s) hn hpos hmax
  rw [hnew] at hanswer
  refine ⟨fun hrun => ?_, fun hstop => ?_⟩
  · refine refuses_of_refuse (act := startTimeAnswer) hs rfl rfl ?_
    rw [hanswer, if_pos hrun]
  · refine answers_of_accept (act := startTimeAnswer) hs rfl rfl ?_
    rw [hanswer, if_neg (by simp [hstop]), tbByte_eq]
    rfl

/-- Settles O45: the two clauses are the two branches of `stopTimeAnswer`, and the new state code is that of STOPPED. -/
theorem stopTimeDiscardsOwedAdvances : Obligations.StopTimeDiscardsOwedAdvances := by
  intro s r pad hs
  refine ⟨fun hstop => ?_, fun hrun => ?_⟩
  · refine refuses_of_refuse (act := stopTimeAnswer) hs rfl rfl ?_
    rw [stopTimeAnswer_eq, if_pos hstop]
  · refine answers_of_accept (act := stopTimeAnswer) hs rfl rfl ?_
    rw [stopTimeAnswer_eq, if_neg (by simp [hrun])]
    rfl

/-! ### Holds and releases -/

/-- With the request hold set the time base is STOPPED or HELD. -/
theorem holdTimeAnswer_eq (s : State) (r : Serving) :
    holdTimeAnswer s r =
      .accept .ok [if s.timeBase.stopped = true then 0 else 2]
        { s with timeBase := { s.timeBase with requestHold := true } } := by
  simp [holdTimeAnswer, tbByte_eq]

theorem releaseTimeAnswer_eq (s : State) (r : Serving) :
    releaseTimeAnswer s r =
      .accept .ok [if s.timeBase.stopped = true then 0 else if s.timeBase.lineHold = true then 2 else 1]
        { s with timeBase := release s.timeBase { s.timeBase with requestHold := false } } := by
  simp [releaseTimeAnswer, tbByte_eq, release_requestHold]

/-- A policy's code names it (Table 10-8). -/
theorem policyOf_byte (policy : Policy) : policyOf (BitVec.ofNat 8 policy.code).toNat = some policy := by
  cases policy <;> rfl

theorem setReleasePolicyAnswer_eq {s : State} {r : Serving} {kind seq : Byte} {policy : Policy}
    (hb : r.body = kind :: seq :: byte1 policy.code) :
    setReleasePolicyAnswer s r =
      .accept .ok (byte1 policy.code ++ byte1 s.timeBase.policy.code)
        { s with timeBase := { s.timeBase with policy := policy } } := by
  have hpolicy : policyOf (arg1 r.body 2) = some policy := by rw [hb]; exact policyOf_byte policy
  rw [setReleasePolicyAnswer, hpolicy]

theorem exec_holdinDeasserts (s : State) :
    exec .holdinDeasserts s = .next { s with timeBase := release s.timeBase { s.timeBase with lineHold := false } } := rfl

/-- Settles O46: each request is answered by its rule; the two ways to clear a hold are `release`, of which
`release_requestHold` and `release_lineHold` say when the owed count goes. -/
theorem holdsAndTheirRelease : Obligations.HoldsAndTheirRelease := by
  intro s b
  refine ⟨⟨rfl, rfl⟩, fun r pad hs => ?_, fun r pad hs => ?_, rfl, ?_, fun r policy hs => ?_⟩
  · exact answers_of_accept (act := holdTimeAnswer) hs rfl rfl (holdTimeAnswer_eq s r)
  · rw [← release_requestHold]
    exact answers_of_accept (act := releaseTimeAnswer) hs rfl rfl (releaseTimeAnswer_eq s r)
  · rw [exec_holdinDeasserts, release_lineHold]
  · have ⟨_, ⟨_, hb⟩, _⟩ := hs
    exact answers_of_accept (act := setReleasePolicyAnswer) hs rfl rfl (setReleasePolicyAnswer_eq hb)

end Sys2Proof.Claims
end

section
/-! SUPPORT. What the mode rules leave of a record: the laws of Table 1-1 and Table 4-2 hold of every record that a rule makes
of a record that meets them, and its place in the schedule follows its due time. -/

namespace Sys2Proof.Machine

open Sys2Proof.Safety Sys2Proof.Claims

/-! ### Levels (R59, Table 4-2) -/

/-- A record holds a level while it has an output binding (R59). -/
def HoldsLevel (r : Rec) (l : OutLevel) : Prop := r.outputBinding.isSome = true → r.outputLevel = some l

/-- Both laws of one record: the fields of Table 1-1 and the level of Table 4-2. -/
def LegalRecord (r : Rec) : Prop := RecordLaw r ∧ LevelLaw r

theorem setLevel_holdsLevel (r : Rec) (l : OutLevel) : HoldsLevel (setLevel r l) l := by
  intro hbound
  unfold setLevel at hbound ⊢
  split at hbound
  · next hnone => simp [hnone] at hbound
  · rfl

/-- A level is no field that Table 4-2 reads. -/
@[simp] theorem tableLevel_setLevel (r : Rec) (l : OutLevel) : tableLevel (setLevel r l) = tableLevel r := by
  unfold setLevel; split <;> rfl

theorem levelLaw_of_holdsLevel {r : Rec} {l : OutLevel} (htable : tableLevel r = some l) (h : HoldsLevel r l) :
    LevelLaw r := by
  intro l' hl' hbound
  rw [← hl', htable]
  exact h hbound

/-- The level that Table 4-2 names, written. -/
theorem levelLaw_setLevel {r : Rec} {l : OutLevel} (htable : tableLevel r = some l) : LevelLaw (setLevel r l) :=
  levelLaw_of_holdsLevel ((tableLevel_setLevel r l).trans htable) (setLevel_holdsLevel r l)

/-- Where Table 4-2 names no level the record may hold either. -/
theorem levelLaw_of_tableLevel_none {r : Rec} (htable : tableLevel r = none) : LevelLaw r := by
  intro l hl
  rw [htable] at hl
  cases hl

/-! ### The fields that the parts of a rule leave as they are -/

@[simp] theorem setLevel_mode (r : Rec) (l : OutLevel) : (setLevel r l).mode = r.mode := by unfold setLevel; split <;> rfl
@[simp] theorem setLevel_staged (r : Rec) (l : OutLevel) : (setLevel r l).staged = r.staged := by
  unfold setLevel; split <;> rfl
@[simp] theorem setLevel_dueTime (r : Rec) (l : OutLevel) : (setLevel r l).dueTime = r.dueTime := by
  unfold setLevel; split <;> rfl
@[simp] theorem setLevel_triggerBinding (r : Rec) (l : OutLevel) : (setLevel r l).triggerBinding = r.triggerBinding := by
  unfold setLevel; split <;> rfl

/-- A toggle writes the one level or the other, and nothing where the record holds none (R72). -/
theorem toggleLevel_cases (r : Rec) : toggleLevel r = r ∨ ∃ l, toggleLevel r = setLevel r l := by
  unfold toggleLevel
  split
  · exact .inl rfl
  · exact .inr ⟨_, rfl⟩
  · exact .inr ⟨_, rfl⟩

@[simp] theorem toggleLevel_mode (r : Rec) : (toggleLevel r).mode = r.mode := by
  obtain h | ⟨l, h⟩ := toggleLevel_cases r <;> simp [h]

/-- The staged period becomes the period (R90). -/
theorem takeStaged_eq (r : Rec) : takeStaged r = applied r := by
  unfold takeStaged applied periodOf
  split
  · next hnone =>
    cases r
    cases hnone
    rfl
  · next p hp => rw [hp]; rfl

@[simp] theorem takeStaged_mode (r : Rec) : (takeStaged r).mode = r.mode := by rw [takeStaged_eq, applied]
@[simp] theorem takeStaged_triggerBinding (r : Rec) : (takeStaged r).triggerBinding = r.triggerBinding := by
  rw [takeStaged_eq, applied]
@[simp] theorem takeStaged_staged (r : Rec) : (takeStaged r).staged = none := by rw [takeStaged_eq, applied]

/-! ### What the record law gives -/

/-- A number of ticks that a due time can lie ahead, or a count can have left (R2, R43). -/
def TicksInRange (n : Nat) : Prop := 1 ≤ n ∧ n ≤ Config.maxTicks

theorem dueTime_isSome_iff {r : Rec} (h : RecordLaw r) : r.dueTime.isSome = true ↔ r.state = .armed := by
  obtain ⟨_, _, _, hdue, _⟩ := h
  exact hdue

theorem dueTime_eq_none {r : Rec} (h : RecordLaw r) (hstate : r.state ≠ .armed) : r.dueTime = none := by
  rw [← Option.not_isSome_iff_eq_none, dueTime_isSome_iff h]
  exact hstate

theorem period_inRange {r : Rec} (h : RecordLaw r) : PeriodInRange r.mode r.period := by
  obtain ⟨_, hperiod, _⟩ := h
  exact hperiod

theorem ticksInRange_of_period {mode : Mode} {p : Nat} (h : PeriodInRange mode p) : TicksInRange p := by
  obtain ⟨hpos, hmax, _⟩ := h
  exact ⟨hpos, hmax⟩

theorem state_modeTakes {r : Rec} (h : RecordLaw r) : modeTakes r.mode r.state = true := by
  obtain ⟨htakes, _⟩ := h
  exact htakes

/-- A staged period is present only where Table 5-1 stages (R90). -/
theorem mayStage_of_staged {r : Rec} (h : RecordLaw r) (hs : r.staged.isSome = true) : mayStage r.mode r.state = true := by
  obtain ⟨_, _, hstaged, _⟩ := h
  obtain ⟨p, hp⟩ := Option.isSome_iff_exists.1 hs
  exact (hstaged p hp).2

theorem triggerBinding_of_delayed {r : Rec} (h : RecordLaw r) (hmode : r.mode = .delayed) (hstate : r.state ≠ .idle) :
    r.triggerBinding.isSome = true := by
  obtain ⟨_, _, _, _, _, _, _, _, htrigger, _⟩ := h
  exact htrigger hmode hstate

/-- A count in progress lies in the range of a tick count (Table 1-1). -/
theorem remaining_inRange {r : Rec} (h : RecordLaw r) (hstate : r.state = .suspended) (hmode : r.mode = .single) :
    TicksInRange (r.remaining.getD 0) := by
  obtain ⟨_, _, _, _, hremaining, hrange, _⟩ := h
  obtain ⟨n, hn⟩ := Option.isSome_iff_exists.1 (hremaining.2 ⟨hstate, hmode⟩)
  rw [hn]
  exact hrange n hn

/-- Every mode can be ARMED (Table 4-1). -/
theorem modeTakes_armed (mode : Mode) : modeTakes mode .armed = true := by cases mode <;> rfl

/-- A mode that stages at all stages in ARMED (R90). -/
theorem mayStage_armed {mode : Mode} {state : RecState} (h : mayStage mode state = true) :
    mayStage mode .armed = true := by
  cases mode with
  | single => cases state <;> cases h
  | cyclic | square | delayed | watch => rfl

/-- A SQUARE period is at least 2 (R12, R87), so neither half is empty. -/
theorem two_le_of_square {p : Nat} (h : PeriodInRange .square p) : 2 ≤ p := by
  obtain ⟨hpos, _, hlong⟩ := h
  have hne : p ≠ 1 := of_decide_eq_false hlong
  omega

theorem highHalf_inRange {p : Nat} (h : PeriodInRange .square p) : TicksInRange (highHalf p) := by
  have hp := two_le_of_square h
  obtain ⟨_, hmax, _⟩ := h
  unfold TicksInRange highHalf Config.maxTicks at *
  omega

theorem lowHalf_inRange {p : Nat} (h : PeriodInRange .square p) : TicksInRange (lowHalf p) := by
  have hp := two_le_of_square h
  obtain ⟨_, hmax, _⟩ := h
  unfold TicksInRange lowHalf Config.maxTicks at *
  omega

/-! ### The record law of what a rule makes, part by part -/

/-- The level written where a record is bound is a level present where it is bound. -/
theorem recordLaw_setLevel {r : Rec} (h : RecordLaw r) (l : OutLevel) : RecordLaw (setLevel r l) := by
  unfold setLevel
  split
  · exact h
  · next k hk =>
    obtain ⟨htakes, hperiod, hstaged, hdue, hremaining, hrange, hphase, _, hrest⟩ := h
    exact ⟨htakes, hperiod, hstaged, hdue, hremaining, hrange, hphase, by simp [hk], hrest⟩

theorem recordLaw_toggleLevel {r : Rec} (h : RecordLaw r) : RecordLaw (toggleLevel r) := by
  obtain heq | ⟨l, heq⟩ := toggleLevel_cases r
  · rwa [heq]
  · rw [heq]
    exact recordLaw_setLevel h l

theorem recordLaw_replaced {r : Rec} (h : RecordLaw r) {p : Nat} (hp : PeriodInRange r.mode p) :
    RecordLaw { r with period := p, staged := none } := by
  obtain ⟨htakes, _, _, hrest⟩ := h
  exact ⟨htakes, hp, fun _ hnone => absurd hnone (by simp), hrest⟩

theorem recordLaw_staged {r : Rec} (h : RecordLaw r) {p : Nat} (hp : PeriodInRange r.mode p)
    (hstage : mayStage r.mode r.state = true) : RecordLaw { r with staged := some p } := by
  obtain ⟨htakes, hperiod, _, hrest⟩ := h
  exact ⟨htakes, hperiod, fun q hq => by cases hq; exact ⟨hp, hstage⟩, hrest⟩

/-- An ARMED record may take any due time. -/
theorem recordLaw_dueTime {r : Rec} (h : RecordLaw r) (hstate : r.state = .armed) (due : Time) :
    RecordLaw { r with dueTime := some due } := by
  obtain ⟨htakes, hperiod, hstaged, _, hrest⟩ := h
  exact ⟨htakes, hperiod, hstaged, by simp [hstate], hrest⟩

/-- A SUSPENDED SINGLE record may take any count in range. -/
theorem recordLaw_remaining {r : Rec} (h : RecordLaw r) (hstate : r.state = .suspended) (hmode : r.mode = .single)
    {n : Nat} (hn : TicksInRange n) : RecordLaw { r with remaining := some n } := by
  obtain ⟨htakes, hperiod, hstaged, hdue, _, _, hrest⟩ := h
  exact ⟨htakes, hperiod, hstaged, hdue, by simp [hstate, hmode], fun m hm => by cases hm; exact hn, hrest⟩

theorem periodOf_inRange {r : Rec} (h : RecordLaw r) : PeriodInRange r.mode (periodOf r) := by
  obtain ⟨_, hperiod, hstaged, _⟩ := h
  unfold periodOf
  cases hs : r.staged with
  | none => exact hperiod
  | some p => exact (hstaged p hs).1

theorem recordLaw_takeStaged {r : Rec} (h : RecordLaw r) : RecordLaw (takeStaged r) := by
  rw [takeStaged_eq]
  exact recordLaw_replaced h (periodOf_inRange h)

/-- A record ARMED in a mode with no phase. -/
theorem recordLaw_armedAt {r : Rec} (h : RecordLaw r) (hmode : r.mode ≠ .square)
    (htrigger : r.mode = .delayed → r.triggerBinding.isSome = true) (due : Time) : RecordLaw (armedAt r due) := by
  obtain ⟨_, hperiod, hstaged, _, _, _, hphase, hlevel, _, hreport⟩ := h
  refine ⟨modeTakes_armed r.mode, hperiod, fun p hp => ⟨(hstaged p hp).1, mayStage_armed (hstaged p hp).2⟩, ?_, ?_, ?_, ?_,
    hlevel, fun hd _ => htrigger hd, hreport⟩
  · simp [armedAt]
  · simp [armedAt]
  · simp [armedAt]
  · simpa [armedAt, hmode] using hphase

/-- A SQUARE record ARMED in one of its halves. -/
theorem recordLaw_armedAt_phase {r : Rec} (h : RecordLaw r) (hmode : r.mode = .square) (due : Time) (phase : Phase) :
    RecordLaw { armedAt r due with phase := some phase } := by
  obtain ⟨_, hperiod, hstaged, _, _, _, _, hlevel, _, hreport⟩ := h
  refine ⟨modeTakes_armed r.mode, hperiod, fun p hp => ⟨(hstaged p hp).1, mayStage_armed (hstaged p hp).2⟩, ?_, ?_, ?_, ?_,
    hlevel, fun hd => ?_, hreport⟩
  · simp [armedAt]
  · simp [armedAt]
  · simp [armedAt]
  · simp [armedAt, hmode]
  · rw [armedAt, hmode] at hd
    cases hd

/-- A record in a state that holds no timing. -/
theorem recordLaw_untimed {r : Rec} (h : RecordLaw r) {state : RecState} (htakes : modeTakes r.mode state = true)
    (harmed : state ≠ .armed) (hsuspended : ¬ (state = .suspended ∧ r.mode = .single))
    (hstage : r.staged.isSome = true → mayStage r.mode state = true)
    (htrigger : r.mode = .delayed → state ≠ .idle → r.triggerBinding.isSome = true) : RecordLaw (untimed r state) := by
  obtain ⟨_, hperiod, hstaged, _, _, _, _, hlevel, _, hreport⟩ := h
  refine ⟨htakes, hperiod, fun p hp => ⟨(hstaged p hp).1, hstage (by rw [show r.staged = some p from hp]; rfl)⟩, ?_, ?_, ?_,
    ?_, hlevel, htrigger, hreport⟩
  · simp [untimed, harmed]
  · simpa [untimed] using hsuspended
  · simp [untimed]
  · simp [untimed, harmed]

/-- A SINGLE record SUSPENDED with the ticks it has left. -/
theorem recordLaw_suspended {r : Rec} (h : RecordLaw r) (hmode : r.mode = .single) {n : Nat}
    (hn : TicksInRange n) : RecordLaw { untimed r .suspended with remaining := some n } := by
  obtain ⟨_, hperiod, hstaged, _, _, _, _, hlevel, _, hreport⟩ := h
  have hnone : ∀ state, mayStage .single state = false := by intro state; cases state <;> rfl
  refine ⟨by rw [untimed, hmode]; rfl, hperiod, fun p hp => ?_, ?_, ?_, ?_, ?_, hlevel, fun hd => ?_, hreport⟩
  · have hstage := (hstaged p hp).2
    rw [hmode, hnone] at hstage
    cases hstage
  · simp [untimed]
  · simp [untimed, hmode]
  · intro m hm
    cases hm
    exact hn
  · simp [untimed]
  · rw [untimed, hmode] at hd
    cases hd

/-! ### Firings (R120) -/

@[simp] theorem firedRecord_dueTime (now : Time) (r : Rec) : (firedRecord now r).dueTime = r.dueTime := by
  unfold firedRecord; split <;> rfl

/-- A firing writes the reporting fields, which the record law ties to one another alone. -/
theorem legalRecord_firedRecord {r : Rec} (h : LegalRecord r) (now : Time) : LegalRecord (firedRecord now r) := by
  obtain ⟨⟨htakes, hperiod, hstaged, hdue, hremaining, hrange, hphase, hlevel, htrigger, hfirst, hreport⟩, htable⟩ := h
  unfold firedRecord
  split
  · next hu =>
    refine ⟨⟨htakes, hperiod, hstaged, hdue, hremaining, hrange, hphase, hlevel, htrigger, hfirst, min_le_left _ _,
      fun hn => ?_, fun _ => rfl⟩, htable⟩
    exact absurd (hu.symm.trans hn) (by simp)
  · exact ⟨⟨htakes, hperiod, hstaged, hdue, hremaining, hrange, hphase, hlevel, htrigger, rfl, Nat.zero_le _,
      fun _ => rfl, fun _ => rfl⟩, htable⟩

theorem legalRecord_acknowledged {r : Rec} (h : LegalRecord r) : LegalRecord (acknowledged r) := by
  obtain ⟨⟨htakes, hperiod, hstaged, hdue, hremaining, hrange, hphase, hlevel, htrigger, _⟩, htable⟩ := h
  exact ⟨⟨htakes, hperiod, hstaged, hdue, hremaining, hrange, hphase, hlevel, htrigger, rfl, Nat.zero_le _, fun _ => rfl,
    fun hn => absurd hn (by simp [acknowledged])⟩, htable⟩

/-! ### Effects -/

/-- A point that a duration in range leads to lies that duration ahead. -/
theorem ahead_after_of_inRange (now : Time) {n : Nat} (h : TicksInRange n) : ahead now (after now n) = n := by
  obtain ⟨_, hmax⟩ := h
  exact ahead_after now (by unfold Config.maxTicks at hmax; omega)

/-- A schedule operation agrees with a record whose due time goes from `old` to `new`. -/
def SchedOp.Agrees (now : Time) (old new : Option Time) : SchedOp → Prop
  | .keep => new = old
  | .remove => new = none
  | .place due => new = some due ∧ TicksInRange (ahead now due)

/-- An effect on a record with due time `old` that keeps the laws: it leaves a legal record, and its place in the schedule
follows its due time. -/
def LegalEffect (now : Time) (old : Option Time) (e : Effect) : Prop :=
  LegalRecord e.record ∧ e.schedule.Agrees now old e.record.dueTime

/-- A record due in `n` ticks is placed there. -/
theorem legalEffect_timed {now : Time} {old : Option Time} {y : Rec} {n : Nat} (hrecord : RecordLaw y)
    (hlevel : LevelLaw y) (hdue : y.dueTime = some (after now n)) (hn : TicksInRange n) (fires : Bool) :
    LegalEffect now old (timed y fires) := by
  refine ⟨⟨hrecord, hlevel⟩, ?_⟩
  simp only [timed, placed, hdue, SchedOp.Agrees, true_and]
  rwa [ahead_after_of_inRange now hn]

/-- The start of a HIGH half is placed (R75, R77, R78). -/
theorem legalEffect_startHigh {now : Time} {old : Option Time} {r : Rec} (h : RecordLaw r) (hmode : r.mode = .square)
    (fires : Bool) : LegalEffect now old (timed (startHigh r now) fires) := by
  have hp : PeriodInRange .square r.period := hmode ▸ period_inRange h
  exact legalEffect_timed (recordLaw_setLevel (recordLaw_armedAt_phase h hmode _ _) _)
    (levelLaw_setLevel (by simp [tableLevel, armedAt, hmode])) (setLevel_dueTime _ _) (highHalf_inRange hp) fires

/-- The start of a LOW half is placed (R76). -/
theorem legalEffect_startLow {now : Time} {old : Option Time} {r : Rec} (h : RecordLaw r) (hmode : r.mode = .square)
    (fires : Bool) : LegalEffect now old (timed (startLow r now) fires) := by
  have hp : PeriodInRange .square r.period := hmode ▸ period_inRange h
  exact legalEffect_timed (recordLaw_setLevel (recordLaw_armedAt_phase h hmode _ _) _)
    (levelLaw_setLevel (by simp [tableLevel, armedAt, hmode])) (setLevel_dueTime _ _) (lowHalf_inRange hp) fires

/-- A record ARMED in a mode with no phase is placed at its due time. -/
theorem legalEffect_armedAt {now : Time} {old : Option Time} {r : Rec} {n : Nat} (h : RecordLaw r)
    (hmode : r.mode ≠ .square) (htrigger : r.mode = .delayed → r.triggerBinding.isSome = true) (hn : TicksInRange n)
    (hlevel : LevelLaw (armedAt r (after now n))) (fires : Bool) :
    LegalEffect now old (timed (armedAt r (after now n)) fires) :=
  legalEffect_timed (recordLaw_armedAt h hmode htrigger _) hlevel rfl hn fires

/-- A record that an event takes to a state with no timing, at the level of that state, leaves the schedule. -/
theorem legalEffect_untimed {now : Time} {old : Option Time} {r : Rec} {state : RecState} {l : OutLevel}
    (h : RecordLaw (untimed r state)) (htable : tableLevel (untimed r state) = some l) (fires : Bool) :
    LegalEffect now old { record := setLevel (untimed r state) l, schedule := .remove, fires := fires } :=
  ⟨⟨recordLaw_setLevel h l, levelLaw_setLevel htable⟩, setLevel_dueTime _ l⟩

/-! ### ARM, DISARM and REVISE (R63, R65, R87) -/

/-- An ARM that waits for a trigger writes INACTIVE and sets no due time. -/
theorem legalEffect_armUntimed {now : Time} {r : Rec} {state : RecState} (h : RecordLaw r) (hstaged : r.staged = none)
    (htakes : modeTakes r.mode state = true) (harmed : state ≠ .armed)
    (hsuspended : ¬ (state = .suspended ∧ r.mode = .single))
    (htrigger : r.mode = .delayed → r.triggerBinding.isSome = true)
    (htable : tableLevel (untimed r state) = some .inactive) :
    LegalEffect now none { record := untimed (setLevel r .inactive) state, schedule := .keep, fires := false } := by
  have hrecord : RecordLaw (untimed (setLevel r .inactive) state) :=
    recordLaw_untimed (recordLaw_setLevel h .inactive) (by simpa using htakes) harmed (by simpa using hsuspended)
      (by simp [hstaged]) (by simpa using fun hd _ => htrigger hd)
  have hlevel : tableLevel (untimed (setLevel r .inactive) state) = some .inactive := by
    simpa [tableLevel, untimed] using htable
  exact ⟨⟨hrecord, levelLaw_of_holdsLevel hlevel (setLevel_holdsLevel r .inactive)⟩, rfl⟩

/-- ARM of a record whose staged period has been applied, and which no due time ties to the schedule. -/
theorem legalEffect_armRecord {now : Time} {r : Rec} (h : RecordLaw r) (hstaged : r.staged = none) (active : Bool)
    (htrigger : r.mode = .delayed → r.triggerBinding.isSome = true) :
    LegalEffect now none (armRecord now active r) := by
  have hrecord : RecordLaw (setLevel r .inactive) := recordLaw_setLevel h .inactive
  have hlevel : HoldsLevel (setLevel r .inactive) .inactive := setLevel_holdsLevel r .inactive
  have hperiod : TicksInRange r.period := ticksInRange_of_period (period_inRange h)
  unfold armRecord
  cases hmode : r.mode with
  | single =>
    cases active with
    | true =>
      exact legalEffect_armedAt hrecord (by simp [hmode]) (by simp [hmode]) hperiod
        (levelLaw_of_holdsLevel (by simp [tableLevel, armedAt, hmode]) hlevel) false
    | false =>
      exact ⟨⟨recordLaw_suspended hrecord (by simp [hmode]) hperiod,
        levelLaw_of_holdsLevel (by simp [tableLevel, untimed, hmode]) hlevel⟩, rfl⟩
  | cyclic =>
    cases active with
    | true =>
      exact legalEffect_armedAt hrecord (by simp [hmode]) (by simp [hmode]) hperiod
        (levelLaw_of_tableLevel_none (by simp [tableLevel, armedAt, hmode])) false
    | false =>
      exact legalEffect_armUntimed h hstaged (by simp [hmode, modeTakes]) (by simp) (by simp [hmode]) htrigger
        (by simp [tableLevel, untimed, hmode])
  | square =>
    cases active with
    | true => exact legalEffect_startHigh h hmode false
    | false =>
      exact legalEffect_armUntimed h hstaged (by simp [hmode, modeTakes]) (by simp) (by simp [hmode]) htrigger
        (by simp [tableLevel, untimed, hmode])
  | delayed =>
    exact legalEffect_armUntimed h hstaged (by simp [hmode, modeTakes]) (by simp) (by simp) htrigger
      (by simp [tableLevel, untimed, hmode])
  | watch =>
    exact legalEffect_armedAt hrecord (by simp [hmode]) (by simp [hmode]) hperiod
      (levelLaw_of_holdsLevel (by simp [tableLevel, armedAt, hmode]) hlevel) false

/-- Every mode is INACTIVE in IDLE (Table 4-2). -/
theorem tableLevel_idle {r : Rec} (h : r.state = .idle) : tableLevel r = some .inactive := by
  unfold tableLevel
  rw [h]
  cases r.mode <;> rfl

theorem modeTakes_idle (mode : Mode) : modeTakes mode .idle = true := by cases mode <;> rfl

theorem legalEffect_disarmRecord {r : Rec} (h : RecordLaw r) (now : Time) (old : Option Time) :
    LegalEffect now old (disarmRecord r) := by
  have hunstaged : RecordLaw { r with staged := none } := recordLaw_replaced h (period_inRange h)
  have hidle : RecordLaw (untimed { r with staged := none } .idle) :=
    recordLaw_untimed hunstaged (modeTakes_idle _) (by simp) (by simp) (by simp) (by simp)
  exact legalEffect_untimed hidle (tableLevel_idle rfl) false

/-- A replacement writes the period, and the count of a SINGLE record that has one (R88). -/
theorem legalEffect_replacePeriod {now : Time} {r : Rec} (h : LegalRecord r) {p : Nat} (hp : PeriodInRange r.mode p) :
    LegalEffect now r.dueTime (replacePeriod now r p) := by
  obtain ⟨hrecord, hlevel⟩ := h
  have hwritten : RecordLaw { r with period := p, staged := none } := recordLaw_replaced hrecord hp
  unfold replacePeriod
  split
  · next hmode hstate =>
    exact legalEffect_timed (recordLaw_dueTime hwritten hstate _) hlevel rfl (ticksInRange_of_period hp) false
  · next hmode hstate =>
    exact ⟨⟨recordLaw_remaining hwritten hstate hmode (ticksInRange_of_period hp), hlevel⟩, rfl⟩
  · exact ⟨⟨hwritten, hlevel⟩, rfl⟩

/-- Table 5-1 stages only where a staged period may be present (R89, R90). -/
theorem mayStage_of_disposition {r : Rec} (h : RecordLaw r) (hd : dispositionOf r = .staged) :
    mayStage r.mode r.state = true := by
  have htakes := state_modeTakes h
  unfold dispositionOf at hd
  revert htakes hd
  cases r.mode <;> cases r.state <;> decide

/-- A REVISE replaces or stages (R87); a staging writes the staged period alone (R89). -/
theorem legalEffect_reviseRecord {now : Time} {r : Rec} (h : LegalRecord r) {p : Nat} (hp : PeriodInRange r.mode p) :
    LegalEffect now r.dueTime (reviseRecord now r p) := by
  unfold reviseRecord
  split
  · exact legalEffect_replacePeriod h hp
  · next hd =>
    obtain ⟨hrecord, hlevel⟩ := h
    exact ⟨⟨recordLaw_staged hrecord hp (mayStage_of_disposition hrecord hd), hlevel⟩, rfl⟩

/-! ### Expiries (R70, R72, R76, R77, R82, R85) -/

/-- A staged period stands only in a state that stages. -/
theorem staged_eq_none {r : Rec} (h : RecordLaw r) (hstage : mayStage r.mode r.state = false) : r.staged = none := by
  rw [← Option.not_isSome_iff_eq_none]
  intro hs
  rw [mayStage_of_staged h hs] at hstage
  cases hstage

/-- The expiry of a record due now. -/
theorem legalEffect_expireRecord {now : Time} {r : Rec} (hrecord : RecordLaw r) (hdue : r.dueTime = some now) :
    LegalEffect now (some now) (expireRecord now r) := by
  have hstate : r.state = .armed := (dueTime_isSome_iff hrecord).1 (by rw [hdue]; rfl)
  unfold expireRecord
  cases hmode : r.mode with
  | single =>
    have hstaged : r.staged = none := staged_eq_none hrecord (by simp [hmode, hstate, mayStage])
    have hfired : RecordLaw (untimed r .fired) :=
      recordLaw_untimed hrecord (by simp [hmode, modeTakes]) (by simp) (by simp) (by simp [hstaged]) (by simp [hmode])
    exact legalEffect_untimed hfired (by simp [tableLevel, untimed, hmode]) true
  | watch =>
    have hfired : RecordLaw (untimed r .fired) :=
      recordLaw_untimed hrecord (by simp [hmode, modeTakes]) (by simp) (by simp) (by simp [hmode, mayStage])
        (by simp [hmode])
    exact legalEffect_untimed hfired (by simp [tableLevel, untimed, hmode]) true
  | delayed =>
    have htrigger := triggerBinding_of_delayed hrecord hmode (by simp [hstate])
    have hwaiting : RecordLaw (untimed r .waiting) :=
      recordLaw_untimed hrecord (by simp [hmode, modeTakes]) (by simp) (by simp) (by simp [hmode, mayStage])
        fun _ _ => htrigger
    exact legalEffect_untimed hwaiting (by simp [tableLevel, untimed, hmode]) true
  | cyclic =>
    have htoggled : RecordLaw (takeStaged (toggleLevel r)) := recordLaw_takeStaged (recordLaw_toggleLevel hrecord)
    rw [hdue]
    exact legalEffect_armedAt htoggled (by simp [hmode]) (by simp [hmode]) (ticksInRange_of_period (period_inRange htoggled))
      (levelLaw_of_tableLevel_none (by simp [tableLevel, armedAt, hmode])) true
  | square =>
    have happlied : RecordLaw (takeStaged r) := recordLaw_takeStaged hrecord
    have hsquare : (takeStaged r).mode = .square := by simp [hmode]
    rw [hdue]
    cases r.phase with
    | none => exact legalEffect_startHigh happlied hsquare true
    | some phase =>
      cases phase with
      | low => exact legalEffect_startHigh happlied hsquare true
      | high => exact legalEffect_startLow happlied hsquare false

/-! ### Asserts and deasserts (R68, R69, R73, R74, R78, R79, R81, R84) -/

/-- An assert starts the count of a DELAYED record, or starts it again (R81). -/
theorem legalEffect_delayedAssert {now : Time} {old : Option Time} {r : Rec} (h : RecordLaw r) (hmode : r.mode = .delayed)
    (hstate : r.state ≠ .idle) :
    LegalEffect now old
      (timed (setLevel (armedAt (takeStaged r) (after now (takeStaged r).period)) .active) false) := by
  have happlied : RecordLaw (takeStaged r) := recordLaw_takeStaged h
  have htrigger : (takeStaged r).triggerBinding.isSome = true := by simpa using triggerBinding_of_delayed h hmode hstate
  have harmed := recordLaw_armedAt happlied (by simp [hmode]) (fun _ => htrigger) (after now (takeStaged r).period)
  exact legalEffect_timed (recordLaw_setLevel harmed _) (levelLaw_setLevel (by simp [tableLevel, armedAt, hmode]))
    (setLevel_dueTime _ _) (ticksInRange_of_period (period_inRange happlied)) false

theorem legalEffect_assertRecord {now : Time} {r : Rec} {e : Effect} (h : LegalRecord r)
    (he : assertRecord now r = some e) : LegalEffect now r.dueTime e := by
  obtain ⟨hrecord, hlevel⟩ := h
  have happlied : RecordLaw (takeStaged r) := recordLaw_takeStaged hrecord
  have hperiod : TicksInRange (takeStaged r).period := ticksInRange_of_period (period_inRange happlied)
  unfold assertRecord at he
  split at he
  · next hmode hstate =>
    cases he
    have hinactive : HoldsLevel r .inactive := hlevel _ (by simp [tableLevel, hmode, hstate])
    exact legalEffect_armedAt hrecord (by simp [hmode]) (by simp [hmode]) (remaining_inRange hrecord hstate hmode)
      (levelLaw_of_holdsLevel (by simp [tableLevel, armedAt, hmode]) hinactive) false
  · next hmode hstate =>
    cases he
    exact legalEffect_armedAt happlied (by simp [hmode]) (by simp [hmode]) hperiod
      (levelLaw_of_tableLevel_none (by simp [tableLevel, armedAt, hmode])) false
  · next hmode hstate =>
    cases he
    exact legalEffect_startHigh happlied (by simp [hmode]) false
  · next hmode hstate =>
    cases he
    exact legalEffect_delayedAssert hrecord hmode (by simp [hstate])
  · next hmode hstate =>
    cases he
    exact legalEffect_delayedAssert hrecord hmode (by simp [hstate])
  · next hmode hstate =>
    cases he
    have hinactive : HoldsLevel (takeStaged r) .inactive := by
      rw [takeStaged_eq]
      exact hlevel _ (by simp [tableLevel, hmode, hstate])
    exact legalEffect_armedAt happlied (by simp [hmode]) (by simp [hmode]) hperiod
      (levelLaw_of_holdsLevel (by simp [tableLevel, armedAt, hmode]) hinactive) false
  · cases he

/-- A deassert suspends a CYCLIC or SQUARE record (R74, R79). -/
theorem legalEffect_suspended {now : Time} {old : Option Time} {r : Rec} (h : RecordLaw r)
    (hmode : r.mode = .cyclic ∨ r.mode = .square) :
    LegalEffect now old
      { record := setLevel (untimed r .suspended) .inactive, schedule := .remove, fires := false } := by
  have htakes : modeTakes r.mode .suspended = true ∧ mayStage r.mode .suspended = true := by
    obtain hmode | hmode := hmode <;> simp [hmode, modeTakes, mayStage]
  have hother : r.mode ≠ .single ∧ r.mode ≠ .delayed := by obtain hmode | hmode := hmode <;> simp [hmode]
  have hsuspended : RecordLaw (untimed r .suspended) :=
    recordLaw_untimed h htakes.1 (by simp) (fun hs => hother.1 hs.2) (fun _ => htakes.2) fun hd => absurd hd hother.2
  have htable : tableLevel (untimed r .suspended) = some .inactive := by
    obtain hmode | hmode := hmode <;> simp [tableLevel, untimed, hmode]
  exact legalEffect_untimed hsuspended htable false

theorem legalEffect_deassertRecord {now : Time} {r : Rec} {e : Effect} (h : LegalRecord r)
    (hahead : ∀ due, r.dueTime = some due → TicksInRange (ahead now due)) (he : deassertRecord now r = some e) :
    LegalEffect now r.dueTime e := by
  obtain ⟨hrecord, hlevel⟩ := h
  unfold deassertRecord at he
  split at he
  · next hmode hstate =>
    cases he
    obtain ⟨due, hdue⟩ := Option.isSome_iff_exists.1 ((dueTime_isSome_iff hrecord).2 hstate)
    have hticks : TicksInRange (ahead now due) := hahead due hdue
    have hinactive : HoldsLevel r .inactive := hlevel _ (by simp [tableLevel, hmode, hstate])
    rw [hdue]
    exact ⟨⟨recordLaw_suspended hrecord hmode hticks,
      levelLaw_of_holdsLevel (by simp [tableLevel, untimed, hmode]) hinactive⟩, rfl⟩
  · next hmode hstate =>
    cases he
    exact legalEffect_suspended hrecord (.inl hmode)
  · next hmode hstate =>
    cases he
    exact legalEffect_suspended hrecord (.inr hmode)
  · cases he

end Sys2Proof.Machine
end

section
/-! SUPPORT. The law of the records and the schedule as one invariant of a state, and what the shared operations leave of it:
a change of one record with its place in the schedule, a firing, a retirement, and an advance with its expiries. -/

namespace Sys2Proof.Machine

open Sys2Proof.Safety Sys2Proof.Claims

/-! ### The schedule (R41 to R46) -/

/-- The due time of the record in a slot, if it has one. -/
def dueAt (s : State) (i : SlotId) : Option Time := (recordAt s i).bind Rec.dueTime

theorem dueAt_congr {s t : State} {i : SlotId} (h : recordAt t i = recordAt s i) : dueAt t i = dueAt s i := by
  rw [dueAt, dueAt, h]

theorem dueAt_eq {s : State} {i : SlotId} {r : Rec} (h : recordAt s i = some r) : dueAt s i = r.dueTime := by
  rw [dueAt, h]
  rfl

@[simp] theorem reschedule_keep_schedule (s : State) (i : SlotId) : (reschedule s i .keep).schedule = s.schedule := rfl

@[simp] theorem reschedule_remove_schedule (s : State) (i : SlotId) :
    (reschedule s i .remove).schedule = removeEntry i s.schedule := rfl

@[simp] theorem reschedule_place_schedule (s : State) (i : SlotId) (due : Time) :
    (reschedule s i (.place due)).schedule = placeEntry s.tableTime { slot := i, due := due } (removeEntry i s.schedule) :=
  rfl

/-- A schedule operation on one slot leaves the entries of the others. -/
theorem mem_reschedule_of_ne {s : State} {i : SlotId} {e : Entry} (h : e.slot ≠ i) (op : SchedOp) :
    e ∈ (reschedule s i op).schedule ↔ e ∈ s.schedule := by
  cases op with
  | keep => rfl
  | remove => simp [h]
  | place due =>
    have hne : e ≠ { slot := i, due := due } := fun heq => h (by rw [heq])
    simp [h, hne]

/-- No slot is scheduled twice after a schedule operation, if none was before. -/
theorem reschedule_nodup {s : State} (h : (s.schedule.map Entry.slot).Nodup) (i : SlotId) (op : SchedOp) :
    ((reschedule s i op).schedule.map Entry.slot).Nodup := by
  have hremoved : ((removeEntry i s.schedule).map Entry.slot).Nodup := ((removeEntry_sublist i s.schedule).map _).nodup h
  cases op with
  | keep => exact h
  | remove => exact hremoved
  | place due =>
    have hi : i ∉ (removeEntry i s.schedule).map Entry.slot := by simp
    exact ((placeEntry_perm _ _ _).map Entry.slot).nodup_iff.2 (List.nodup_cons.2 ⟨hi, hremoved⟩)

/-- The schedule stays in the order of R42. -/
theorem reschedule_ordered {s : State}
    (h : s.schedule.Pairwise fun a b => ahead s.tableTime a.due ≤ ahead s.tableTime b.due) (i : SlotId) (op : SchedOp) :
    (reschedule s i op).schedule.Pairwise fun a b => ahead s.tableTime a.due ≤ ahead s.tableTime b.due := by
  have hremoved := h.sublist (removeEntry_sublist i s.schedule)
  cases op with
  | keep => exact h
  | remove => exact hremoved
  | place due => exact placeEntry_pairwise _ _ hremoved

/-! ### The invariant -/

/-- `TimingLaw` with every due time at least `least` ticks ahead: with 1 it is the law between commands (R43), and with 0 what
holds within an advance, while records due at the new table time wait for their expiry (R47). -/
structure TimingFrom (least : Nat) (s : State) : Prop where
  free : FreeSlotsLaw s
  legal : ∀ i r, recordAt s i = some r → LegalRecord r
  once : (s.schedule.map Entry.slot).Nodup
  entries : ∀ i due, Entry.mk i due ∈ s.schedule ↔ dueAt s i = some due
  window : ∀ e ∈ s.schedule, least ≤ ahead s.tableTime e.due ∧ ahead s.tableTime e.due ≤ Config.maxTicks
  ordered : s.schedule.Pairwise fun a b => ahead s.tableTime a.due ≤ ahead s.tableTime b.due

theorem timingFrom_one_iff {s : State} : TimingFrom 1 s ↔ TimingLaw s := by
  constructor
  · rintro ⟨hfree, hlegal, honce, hentries, hwindow, hordered⟩
    refine ⟨hfree, hlegal, honce, fun e he => (hentries e.slot e.due).1 he, fun i r due hr hdue => ?_, hwindow, hordered⟩
    exact (hentries i due).2 ((dueAt_eq hr).trans hdue)
  · rintro ⟨hfree, hlegal, honce, hdue, hentry, hwindow, hordered⟩
    refine ⟨hfree, hlegal, honce, fun i due => ⟨fun he => hdue _ he, fun hd => ?_⟩, hwindow, hordered⟩
    obtain ⟨r, hr, hrdue⟩ := Option.bind_eq_some_iff.1 hd
    exact hentry i r due hr hrdue

/-- A state with the same records, free list, table time and schedule. -/
theorem TimingFrom.congr {least : Nat} {s t : State} (h : TimingFrom least s) (hslots : t.slots = s.slots)
    (hfree : t.freeList = s.freeList) (htime : t.tableTime = s.tableTime) (hschedule : t.schedule = s.schedule) :
    TimingFrom least t := by
  have hrecord : ∀ i, recordAt t i = recordAt s i := recordAt_eq_of_slots hslots
  refine ⟨?_, fun i r hr => h.legal i r (by rwa [hrecord] at hr), ?_, fun i due => ?_, ?_, ?_⟩
  · obtain ⟨hnodup, hnone⟩ := h.free
    exact ⟨hfree ▸ hnodup, fun i hi => (hrecord i).trans (hnone i (hfree ▸ hi))⟩
  · rw [hschedule]
    exact h.once
  · rw [hschedule, dueAt_congr (hrecord i)]
    exact h.entries i due
  · rw [hschedule, htime]
    exact h.window
  · rw [hschedule, htime]
    exact h.ordered

/-- The due time of a live record lies in the window. -/
theorem TimingFrom.due_inRange {s : State} (h : TimingFrom 1 s) {i : SlotId} {r : Rec} (hr : recordAt s i = some r)
    {due : Time} (hdue : r.dueTime = some due) : TicksInRange (ahead s.tableTime due) :=
  h.window { slot := i, due := due } ((h.entries i due).2 ((dueAt_eq hr).trans hdue))

/-! ### A change of one record -/

/-- A change of the record in one slot alone, with a schedule operation that agrees with it: the one way in which commands
other than RESET, START-TIME and the step of table time change records and schedule. -/
theorem TimingFrom.update {least : Nat} {s t : State} {i : SlotId} {op : SchedOp} (h : TimingFrom least s)
    (hleast : least ≤ 1) (hfree : FreeSlotsLaw t) (htime : t.tableTime = s.tableTime)
    (hschedule : t.schedule = (reschedule s i op).schedule) (hother : ∀ j, j ≠ i → recordAt t j = recordAt s j)
    (hlegal : ∀ y, recordAt t i = some y → LegalRecord y)
    (hop : op.Agrees s.tableTime (dueAt s i) (dueAt t i)) : TimingFrom least t := by
  refine ⟨hfree, fun j y hy => ?_, ?_, fun j due => ?_, fun e he => ?_, ?_⟩
  · by_cases hj : j = i
    · exact hlegal y (hj ▸ hy)
    · exact h.legal j y (hother j hj ▸ hy)
  · rw [hschedule]
    exact reschedule_nodup h.once i op
  · rw [hschedule]
    by_cases hj : j = i
    · subst hj
      cases op with
      | keep => rw [reschedule_keep_schedule, h.entries, show dueAt t j = dueAt s j from hop]
      | remove =>
        rw [show dueAt t j = none from hop]
        simp
      | place due' =>
        obtain ⟨hdue, _⟩ := hop
        rw [hdue]
        simp [eq_comm]
    · rw [mem_reschedule_of_ne hj, h.entries, dueAt_congr (hother j hj)]
  · rw [hschedule] at he
    rw [htime]
    by_cases hin : e ∈ s.schedule
    · exact h.window e hin
    · cases op with
      | keep => exact absurd he hin
      | remove => exact absurd (mem_removeEntry.1 he).1 hin
      | place due =>
        obtain ⟨_, hpos, hmax⟩ := hop
        obtain rfl | hold := mem_placeEntry.1 he
        · exact ⟨hleast.trans hpos, hmax⟩
        · exact absurd (mem_removeEntry.1 hold).1 hin
  · rw [hschedule, htime]
    exact reschedule_ordered h.ordered i op

/-- The free list is untouched by a change of a live record. -/
theorem freeSlotsLaw_of_live {s t : State} {i : SlotId} {r : Rec} (h : FreeSlotsLaw s) (hr : recordAt s i = some r)
    (hfree : t.freeList = s.freeList) (hother : ∀ j, j ≠ i → recordAt t j = recordAt s j) : FreeSlotsLaw t := by
  obtain ⟨hnodup, hnone⟩ := h
  refine ⟨hfree ▸ hnodup, fun j hj => ?_⟩
  have hjnone : recordAt s j = none := hnone j (hfree ▸ hj)
  have hne : j ≠ i := fun hji => by rw [hji, hr] at hjnone; cases hjnone
  rw [hother j hne, hjnone]

/-- A record rewritten at the same due time. -/
theorem TimingFrom.putRecord {s : State} (h : TimingFrom 1 s) {i : SlotId} {r y : Rec} (hr : recordAt s i = some r)
    (hlegal : LegalRecord y) (hdue : y.dueTime = r.dueTime) : TimingFrom 1 (putRecord s i y) := by
  have hself : recordAt (Machine.putRecord s i y) i = some y := recordAt_putRecord_self s i y
  have hother : ∀ j, j ≠ i → recordAt (Machine.putRecord s i y) j = recordAt s j := fun j =>
    recordAt_putRecord_of_ne s y
  refine h.update (op := .keep) le_rfl (freeSlotsLaw_of_live h.free hr (putRecord_freeList s i y) hother)
    (putRecord_tableTime s i y) (putRecord_schedule s i y) hother (fun z hz => ?_) ?_
  · cases hself.symm.trans hz
    exact hlegal
  · rw [SchedOp.Agrees, dueAt_eq hself, dueAt_eq hr, hdue]

/-- A record, if there is one, changed at the same due time. -/
theorem TimingFrom.mapRecord {s : State} (h : TimingFrom 1 s) (i : SlotId) {f : Rec → Rec}
    (hlegal : ∀ r, LegalRecord r → LegalRecord (f r)) (hdue : ∀ r, (f r).dueTime = r.dueTime) :
    TimingFrom 1 (mapRecord s i f) := by
  unfold Machine.mapRecord
  split
  · exact h
  · next r hr => exact h.putRecord hr (hlegal r (h.legal i r hr)) (hdue r)

/-- An event decided by a mode. -/
theorem TimingFrom.applyEffect {least : Nat} {s : State} (h : TimingFrom least s) (hleast : least ≤ 1) {i : SlotId}
    {r : Rec} (hr : recordAt s i = some r) {e : Effect} (he : LegalEffect s.tableTime r.dueTime e) :
    TimingFrom least (applyEffect s i e) := by
  obtain ⟨hlegal, hop⟩ := he
  have hother : ∀ j, j ≠ i → recordAt (Machine.applyEffect s i e) j = recordAt s j := fun j hj => by
    rw [recordAt_applyEffect, if_neg hj]
  have hself := recordAt_applyEffect s i i e
  rw [if_pos rfl] at hself
  refine h.update hleast (freeSlotsLaw_of_live h.free hr (applyEffect_freeList s i e) hother)
    (applyEffect_tableTime s i e) (applyEffect_schedule s i e) hother (fun y hy => ?_) ?_
  · cases hself.symm.trans hy
    split
    · exact legalRecord_firedRecord hlegal s.tableTime
    · exact hlegal
  · rw [dueAt_eq hself, dueAt_eq hr]
    split
    · rwa [firedRecord_dueTime]
    · exact hop

/-! ### Retirement and the ends of offers -/

theorem freeSlotsLaw_retireRecord {s : State} (h : FreeSlotsLaw s) {i : SlotId} {r : Rec} (hr : recordAt s i = some r) :
    FreeSlotsLaw (retireRecord s i r) := by
  obtain ⟨hnodup, hnone⟩ := h
  have hi : i ∉ s.freeList := fun hi => by rw [hnone i hi] at hr; cases hr
  rw [FreeSlotsLaw, retireRecord_freeList]
  refine ⟨List.nodup_append.2 ⟨hnodup, List.nodup_singleton i, ?_⟩, fun j hj => ?_⟩
  · intro a ha b hb hab
    cases List.mem_singleton.1 hb
    exact hi (hab ▸ ha)
  · rw [recordAt_retireRecord]
    split
    · rfl
    · next hji =>
      obtain hj | hj := List.mem_append.1 hj
      · exact hnone j hj
      · exact absurd (List.mem_singleton.1 hj) hji

/-- A retired record leaves the schedule with its slot (R14). -/
theorem TimingFrom.retireRecord {s : State} (h : TimingFrom 1 s) {i : SlotId} {r : Rec} (hr : recordAt s i = some r) :
    TimingFrom 1 (retireRecord s i r) := by
  have hself : recordAt (Machine.retireRecord s i r) i = none := by rw [recordAt_retireRecord, if_pos rfl]
  have hgone : dueAt (Machine.retireRecord s i r) i = none := by rw [dueAt, hself]; rfl
  have hschedule := retireRecord_schedule s i r
  refine h.update (op := if r.state = .armed then .remove else .keep) le_rfl (freeSlotsLaw_retireRecord h.free hr)
    (retireRecord_tableTime s i r) ?_ (fun j hj => by rw [recordAt_retireRecord, if_neg hj])
    (fun y hy => by rw [hself] at hy; cases hy) ?_
  · rw [hschedule]
    split <;> rfl
  · rw [hgone, dueAt_eq hr]
    split
    · rfl
    · next hstate =>
      obtain ⟨hrecord, _⟩ := h.legal i r hr
      exact (dueTime_eq_none hrecord hstate).symm

theorem TimingFrom.removeOffer {s : State} (h : TimingFrom 1 s) (i : SlotId) : TimingFrom 1 (removeOffer s i) := by
  have hs : TimingFrom 1 { s with offers := s.offers.filter fun o => decide (o.record ≠ i) } := h.congr rfl rfl rfl rfl
  exact hs.mapRecord i (fun _ hlegal => hlegal) fun _ => rfl

theorem TimingFrom.endOffer {s : State} (h : TimingFrom 1 s) (o : Offer) : TimingFrom 1 (endOffer s o) :=
  (h.removeOffer o.record).congr rfl rfl rfl rfl

theorem TimingFrom.endOffers {s : State} (h : TimingFrom 1 s) (l : List Offer) : TimingFrom 1 (endOffers s l) := by
  induction l generalizing s with
  | nil => exact h
  | cons o rest ih => exact ih (h.endOffer o)

theorem TimingFrom.markClient {s : State} (h : TimingFrom 1 s) (c : Client) : TimingFrom 1 (markClient s c) := by
  have hs : TimingFrom 1 { s with purging := s.purging.set c true } := h.congr rfl rfl rfl rfl
  exact (hs.endOffers (offersOf s c)).congr rfl rfl rfl rfl

theorem TimingFrom.post {s : State} (h : TimingFrom 1 s) (r : Serving) (code : ResultCode) (payload : List Byte) :
    TimingFrom 1 (post s r code payload) :=
  h.congr (post_slots s r code payload) (post_freeList s r code payload) (post_tableTime s r code payload)
    (post_schedule s r code payload)

/-! ### Trigger events (R104) -/

theorem TimingFrom.deliver {s : State} (h : TimingFrom 1 s) (assert : Bool) (i : SlotId) :
    TimingFrom 1 (deliver assert s i) := by
  unfold Machine.deliver
  split
  · exact h
  · next r hr =>
    split
    · exact h
    · next e he =>
      refine h.applyEffect le_rfl hr ?_
      cases assert with
      | true => exact legalEffect_assertRecord (h.legal i r hr) he
      | false => exact legalEffect_deassertRecord (h.legal i r hr) (fun due hdue => h.due_inRange hr hdue) he

theorem TimingFrom.deliverAll {s : State} (h : TimingFrom 1 s) (assert : Bool) (l : List SlotId) :
    TimingFrom 1 (deliverAll assert s l) := by
  induction l generalizing s with
  | nil => exact h
  | cons i rest ih => exact ih (h.deliver assert i)

/-! ### Advances (R47, R48) -/

/-- Only the present lies 0 ticks ahead. -/
theorem ahead_eq_zero {now due : Time} : ahead now due = 0 ↔ due = now := by
  unfold ahead
  constructor
  · intro h
    bv_omega
  · rintro rfl
    simp

/-- A point ahead comes one tick nearer with a step of table time. -/
theorem ahead_succ {now due : Time} (h : 1 ≤ ahead now due) : ahead (now + 1) due = ahead now due - 1 := by
  unfold ahead at *
  bv_omega

/-- A slot is due now exactly when its record's due time is table time. -/
theorem TimingFrom.mem_dueNow {least : Nat} {s : State} (h : TimingFrom least s) {i : SlotId} :
    i ∈ dueNow s ↔ dueAt s i = some s.tableTime := by
  rw [← h.entries]
  unfold dueNow
  constructor
  · intro hi
    obtain ⟨e, he, rfl⟩ := List.mem_map.1 hi
    obtain ⟨hin, hdue⟩ := List.mem_filter.1 he
    rw [← of_decide_eq_true hdue]
    exact hin
  · intro hi
    exact List.mem_map.2 ⟨_, List.mem_filter.2 ⟨hi, by simp⟩, rfl⟩

/-- Between commands no record is due (R43). -/
theorem TimingFrom.dueNow_eq_nil {s : State} (h : TimingFrom 1 s) : dueNow s = [] := by
  unfold dueNow
  rw [List.map_eq_nil_iff, List.filter_eq_nil_iff]
  intro e he hdue
  obtain ⟨hpos, _⟩ := h.window e he
  rw [ahead_eq_zero.2 (of_decide_eq_true hdue)] at hpos
  omega

/-- Once no record is due now, every due time lies ahead. -/
theorem TimingFrom.of_dueNow_eq_nil {s : State} (h : TimingFrom 0 s) (hnone : dueNow s = []) : TimingFrom 1 s := by
  refine ⟨h.free, h.legal, h.once, h.entries, fun e he => ?_, h.ordered⟩
  obtain ⟨_, hmax⟩ := h.window e he
  refine ⟨Nat.pos_of_ne_zero fun hzero => ?_, hmax⟩
  have hin : e.slot ∈ dueNow s := h.mem_dueNow.2 ((h.entries e.slot e.due).1 he |>.trans (by rw [ahead_eq_zero.1 hzero]))
  rw [hnone] at hin
  cases hin

/-- Steps 1 and 2 of an advance bring every due time one tick nearer (R47). -/
theorem TimingFrom.tick {s : State} (h : TimingFrom 1 s) : TimingFrom 0 (tick s) := by
  have hnearer : ∀ e ∈ s.schedule, ahead (s.tableTime + 1) e.due = ahead s.tableTime e.due - 1 := fun e he =>
    ahead_succ (h.window e he).1
  refine ⟨h.free, h.legal, h.once, h.entries, fun e he => ⟨Nat.zero_le _, ?_⟩, ?_⟩
  · show ahead (s.tableTime + 1) e.due ≤ _
    rw [hnearer e he]
    exact (Nat.sub_le _ _).trans (h.window e he).2
  · refine h.ordered.imp_of_mem fun ha hb hle => ?_
    show ahead (s.tableTime + 1) _ ≤ ahead (s.tableTime + 1) _
    rw [hnearer _ ha, hnearer _ hb]
    exact Nat.sub_le_sub_right hle 1

theorem filter_placeEntry {p : Entry → Bool} {e : Entry} (he : p e = false) (now : Time) (l : List Entry) :
    (placeEntry now e l).filter p = l.filter p := by
  induction l with
  | nil => simp [placeEntry, he]
  | cons x rest ih =>
    unfold placeEntry
    split
    · rw [List.filter_cons, List.filter_cons, ih]
    · rw [List.filter_cons, he]
      rfl

theorem map_slot_filter_removeEntry (p : Entry → Bool) (i : SlotId) (l : List Entry) :
    ((removeEntry i l).filter p).map Entry.slot = dropSlot i ((l.filter p).map Entry.slot) := by
  unfold removeEntry dropSlot
  rw [List.filter_map, List.filter_filter, List.filter_filter]
  congr 2
  funext e
  simp [Bool.and_comm]

/-- An event that takes a record out of the schedule, or places it ahead, takes it from those due now and adds none. -/
theorem dueNow_applyEffect {s : State} {i : SlotId} {old : Option Time} {e : Effect}
    (he : LegalEffect s.tableTime old e) (hkeep : e.schedule ≠ .keep) :
    dueNow (applyEffect s i e) = dropSlot i (dueNow s) := by
  obtain ⟨_, hop⟩ := he
  unfold dueNow
  rw [applyEffect_tableTime, applyEffect_schedule]
  cases hs : e.schedule with
  | keep => exact absurd hs hkeep
  | remove => rw [reschedule_remove_schedule, map_slot_filter_removeEntry]
  | place due =>
    rw [hs] at hop
    obtain ⟨_, hpos, _⟩ := hop
    have hne : due ≠ s.tableTime := fun heq => by rw [ahead_eq_zero.2 heq] at hpos; omega
    rw [reschedule_place_schedule, filter_placeEntry (by simp [hne]), map_slot_filter_removeEntry]

theorem timed_schedule_ne_keep (r : Rec) (fires : Bool) : (timed r fires).schedule ≠ .keep := by
  unfold timed placed
  cases r.dueTime <;> simp

/-- An expiry takes its record out of the schedule or moves it. -/
theorem expireRecord_schedule_ne_keep (now : Time) (r : Rec) : (expireRecord now r).schedule ≠ .keep := by
  unfold expireRecord
  cases r.mode with
  | single | watch | delayed => simp
  | cyclic => exact timed_schedule_ne_keep (armedAt _ _) true
  | square =>
    cases r.phase with
    | none => exact timed_schedule_ne_keep _ _
    | some phase => cases phase <;> exact timed_schedule_ne_keep _ _

/-- The expiry of a record due now leaves the invariant, and the others due now (R48). -/
theorem TimingFrom.expireAt {s : State} (h : TimingFrom 0 s) {i : SlotId} (hi : i ∈ dueNow s) :
    TimingFrom 0 (expireAt s i) ∧ dueNow (expireAt s i) = dropSlot i (dueNow s) := by
  obtain ⟨r, hr, hdue⟩ := Option.bind_eq_some_iff.1 (h.mem_dueNow.1 hi)
  obtain ⟨hrecord, _⟩ := h.legal i r hr
  have he := legalEffect_expireRecord hrecord hdue
  simp only [Machine.expireAt, hr]
  exact ⟨h.applyEffect (Nat.zero_le 1) hr (by rwa [hdue]),
    dueNow_applyEffect he (expireRecord_schedule_ne_keep s.tableTime r)⟩

theorem TimingFrom.dueNow_nodup {least : Nat} {s : State} (h : TimingFrom least s) : (dueNow s).Nodup :=
  ((List.filter_sublist).map Entry.slot).nodup h.once

/-- The expiry of all the records due now ends the advance: every due time lies ahead again. -/
theorem TimingFrom.expireAll {s : State} (h : TimingFrom 0 s) {l : List SlotId} (hl : dueNow s = l) :
    TimingFrom 1 (expireAll s l) := by
  induction l generalizing s with
  | nil => exact h.of_dueNow_eq_nil hl
  | cons i rest ih =>
    obtain ⟨hexpired, hothers⟩ := h.expireAt (i := i) (by simp [hl])
    have hi : i ∉ rest := (List.nodup_cons.1 (hl ▸ h.dueNow_nodup)).1
    refine ih hexpired ?_
    rw [hothers, hl, dropSlot, List.filter_cons_of_neg (by simp)]
    exact dropSlot_of_not_mem hi

/-! ### The rebase of a START-TIME (R37) -/

/-- A record with its due time moved by `d`. -/
def rebased (d : Time) (r : Rec) : Rec := { r with dueTime := r.dueTime.map fun due => due + d }

/-- The record law asks only whether a due time is present. -/
theorem legalRecord_rebased {r : Rec} (h : LegalRecord r) (d : Time) : LegalRecord (rebased d r) := by
  obtain ⟨⟨htakes, hperiod, hstaged, hdue, hrest⟩, hlevel⟩ := h
  exact ⟨⟨htakes, hperiod, hstaged, by simpa [rebased] using hdue, hrest⟩, hlevel⟩

theorem recordAt_startTime (s : State) (new : Time) (n : Nat) (i : SlotId) :
    recordAt (startTime s new n) i = (recordAt s i).map (rebased (new - s.tableTime)) :=
  congrArg Slot.record (Table.get_map s.slots (rebaseSlot (new - s.tableTime)) i)

theorem dueAt_startTime (s : State) (new : Time) (n : Nat) (i : SlotId) :
    dueAt (startTime s new n) i = (dueAt s i).map fun due => due + (new - s.tableTime) := by
  rw [dueAt, dueAt, recordAt_startTime]
  cases recordAt s i <;> rfl

/-- Each due time keeps its distance. -/
theorem ahead_rebase (old new due : Time) : ahead new (due + (new - old)) = ahead old due := by
  unfold ahead
  bv_omega

theorem TimingFrom.startTime {s : State} (h : TimingFrom 1 s) (new : Time) (n : Nat) :
    TimingFrom 1 (startTime s new n) := by
  have hschedule : (Machine.startTime s new n).schedule =
      s.schedule.map fun e => { e with due := e.due + (new - s.tableTime) } := rfl
  have hslots : (Machine.startTime s new n).schedule.map Entry.slot = s.schedule.map Entry.slot := by
    rw [hschedule, List.map_map]
    rfl
  refine ⟨?_, fun i y hy => ?_, ?_, fun i due => ?_, fun e he => ?_, ?_⟩
  · obtain ⟨hnodup, hnone⟩ := h.free
    exact ⟨hnodup, fun i hi => by rw [recordAt_startTime, hnone i hi]; rfl⟩
  · rw [recordAt_startTime] at hy
    obtain ⟨r, hr, rfl⟩ := Option.map_eq_some_iff.1 hy
    exact legalRecord_rebased (h.legal i r hr) _
  · rw [hslots]
    exact h.once
  · rw [dueAt_startTime, Option.map_eq_some_iff, hschedule, List.mem_map]
    constructor
    · rintro ⟨e, he, heq⟩
      cases heq
      exact ⟨e.due, (h.entries _ _).1 he, rfl⟩
    · rintro ⟨old, hold, rfl⟩
      exact ⟨_, (h.entries i old).2 hold, rfl⟩
  · obtain ⟨x, hx, rfl⟩ := List.mem_map.1 he
    show 1 ≤ ahead new _ ∧ ahead new _ ≤ _
    rw [ahead_rebase]
    exact h.window x hx
  · refine List.pairwise_map.2 (h.ordered.imp fun hle => ?_)
    show ahead new _ ≤ ahead new _
    rwa [ahead_rebase, ahead_rebase]

end Sys2Proof.Machine
end

section
/-! SUPPORT. How a law of the state is shown of every step: of each command, and for the command of a request of what its own
rule leaves and of the posting. -/

namespace Sys2Proof.Machine

open Host (Outcome)
open Sys2Proof.Safety

/-- A law that the queue does not touch is kept by every step if it is kept by every command. -/
theorem keptByStep_of_exec {law : State → Prop} (hpending : ∀ s rest, law s → law { s with pending := rest })
    (hexec : ∀ c s t, law s → exec c s = .next t → law t) : KeptByStep law := by
  intro s t h hstep
  unfold step at hstep
  split at hstep
  · cases hstep
    exact h
  · next c rest _ => exact hexec c _ t (hpending s rest h) hstep

/-- An answer leaves only states that meet `P`; a refusal leaves none. -/
def Answer.Leaves (P : State → Prop) : Answer → Prop
  | .refuse _ => True
  | .accept _ _ t => P t

@[simp] theorem leaves_refuse (P : State → Prop) (code : ResultCode) : (Answer.refuse code).Leaves P := trivial

/-- A request keeps a law that its posting keeps, if its rule leaves it. -/
theorem takeRequest_keeps {law : State → Prop} {s : State} (h : law s)
    (hpost : ∀ t r code payload, law t → law (post t r code payload)) {k : Kind} {act : State → Serving → Answer}
    (hact : ∀ r, (act s r).Leaves law) : law (takeRequest s k act) := by
  obtain heq | ⟨r, _, _, ⟨code, heq⟩ | ⟨code, payload, t, _, ha, heq⟩⟩ := takeRequest_cases s k act
  · rwa [heq]
  · rw [heq]
    exact hpost s r code [0] h
  · have ht := hact r
    rw [ha] at ht
    rw [heq]
    exact hpost t r code payload ht

/-- A request only the owner may make acts on a live record of the requester (R6, R8). -/
theorem leaves_withOwned {P : State → Prop} {s : State} {c : Client} {h : Handle} {act : Rec → Answer}
    (hact : ∀ x, liveRecord s h = some x → x.owner = c → (act x).Leaves P) : (withOwned s c h act).Leaves P := by
  rw [withOwned]
  cases hx : liveRecord s h with
  | none => exact leaves_refuse _ _
  | some x =>
    dsimp only
    split
    · next howner => exact hact x hx howner
    · exact leaves_refuse _ _

theorem leaves_withIdle {P : State → Prop} {s : State} {c : Client} {h : Handle} {act : Rec → Answer}
    (hact : ∀ x, liveRecord s h = some x → x.owner = c → x.state = .idle → (act x).Leaves P) :
    (withIdle s c h act).Leaves P := by
  refine leaves_withOwned fun x hx howner => ?_
  split
  · next hidle => exact hact x hx howner hidle
  · exact leaves_refuse _ _

/-- ACCEPT and DECLINE act on a live record with an offer to the requester (R140, R142). -/
theorem leaves_withIncoming {P : State → Prop} {s : State} {c : Client} {h : Handle} {act : Rec → Offer → Answer}
    (hact : ∀ x o, liveRecord s h = some x → offerOf s h.slot = some o → o.receiver = c → (act x o).Leaves P) :
    (withIncoming s c h act).Leaves P := by
  rw [withIncoming]
  cases hx : liveRecord s h with
  | none => exact leaves_refuse _ _
  | some x =>
    cases ho : offerOf s h.slot with
    | none => exact leaves_refuse _ _
    | some o =>
      dsimp only
      split
      · next hreceiver => exact hact x o hx ho hreceiver
      · exact leaves_refuse _ _

end Sys2Proof.Machine
end

section
/-! SUPPORT. What each command leaves of the records and the schedule. -/

namespace Sys2Proof.Machine

open Host (Outcome)
open Sys2Proof.Safety Sys2Proof.Claims

/-! ### CREATE, RETIRE and RELABEL -/

theorem arg3_le (body : List Byte) (i : Nat) : arg3 body i ≤ Config.maxTicks := by
  have h0 := (bodyByte body i).isLt
  have h1 := (bodyByte body (i + 1)).isLt
  have h2 := (bodyByte body (i + 2)).isLt
  unfold arg3 arg2 arg1 Config.maxTicks
  omega

/-- A 3-byte period that passes the range checks of CREATE and REVISE is in the range of Table 1-1 (R12, R87). -/
theorem periodInRange_arg3 {mode : Mode} {body : List Byte} {i : Nat} (hzero : arg3 body i ≠ 0)
    (hlong : periodTooShort mode (arg3 body i) = false) : PeriodInRange mode (arg3 body i) :=
  ⟨Nat.pos_of_ne_zero hzero, arg3_le body i, hlong⟩

/-- A record just created is legal: IDLE, unbound and never fired (R13). -/
theorem legalRecord_newRecord (owner : Client) {mode : Mode} {period : Nat} (h : PeriodInRange mode period)
    (priority : Fin 4) (tag : BitVec 16) (share : Bool) :
    LegalRecord (newRecord owner mode period priority tag share) := by
  refine ⟨⟨modeTakes_idle mode, h, ?_, ?_, ?_, ?_, ?_, rfl, fun _ hidle => absurd rfl hidle, rfl, Nat.zero_le _,
    fun _ => rfl, ?_⟩, levelLaw_of_holdsLevel (tableLevel_idle rfl) ?_⟩ <;> simp [newRecord, HoldsLevel]

/-- The slot at the head of the free list is filled with a record that is not scheduled (R13). -/
theorem TimingFrom.fillSlot {s : State} (h : TimingFrom 1 s) {i : SlotId} {rest : List SlotId}
    (hfree : s.freeList = i :: rest) {new : Rec} (hlegal : LegalRecord new) (hdue : new.dueTime = none) :
    TimingFrom 1 (Machine.putRecord { s with freeList := rest } i new) := by
  obtain ⟨hnodup, hnone⟩ := h.free
  rw [hfree] at hnodup hnone
  obtain ⟨hhead, hrest⟩ := List.nodup_cons.1 hnodup
  have hempty : dueAt s i = none := by rw [dueAt, hnone i List.mem_cons_self]; rfl
  have hother : ∀ j, j ≠ i → recordAt (Machine.putRecord { s with freeList := rest } i new) j = recordAt s j :=
    fun j hj => recordAt_putRecord_of_ne _ new hj
  have hself : recordAt (Machine.putRecord { s with freeList := rest } i new) i = some new :=
    recordAt_putRecord_self _ i new
  refine h.update (op := .keep) le_rfl ⟨hrest, fun j hj => ?_⟩ rfl rfl hother (fun y hy => ?_) ?_
  · rw [hother j fun hji => hhead (hji ▸ hj)]
    exact hnone j (List.mem_cons_of_mem i hj)
  · cases hself.symm.trans hy
    exact hlegal
  · rw [SchedOp.Agrees, dueAt_eq hself, hdue, hempty]

theorem TimingFrom.createRecord {s : State} (h : TimingFrom 1 s) (r : Serving) {new : Rec} (hlegal : LegalRecord new)
    (hdue : new.dueTime = none) : (createRecord s r new).Leaves (TimingFrom 1) := by
  unfold Machine.createRecord
  split
  · exact leaves_refuse _ _
  · split
    · exact leaves_refuse _ _
    · next i rest hfree => exact (h.fillSlot hfree hlegal hdue).congr rfl rfl rfl rfl

theorem createAnswer_leaves {s : State} (h : TimingFrom 1 s) (r : Serving) :
    (createAnswer s r).Leaves (TimingFrom 1) := by
  unfold createAnswer
  split
  · next mode priority share _ _ _ =>
    split
    · exact leaves_refuse _ _
    · next hrange =>
      rw [not_or, Bool.not_eq_true] at hrange
      obtain ⟨hzero, hlong⟩ := hrange
      exact h.createRecord r (legalRecord_newRecord _ (periodInRange_arg3 hzero hlong) _ _ _) rfl
  · exact leaves_refuse _ _

theorem retireAnswer_leaves {s : State} (h : TimingFrom 1 s) (r : Serving) :
    (retireAnswer s r).Leaves (TimingFrom 1) :=
  leaves_withOwned fun _ hx _ => h.retireRecord (recordAt_of_liveRecord hx)

theorem TimingFrom.relabelRecord {s : State} (h : TimingFrom 1 s) {i : SlotId} {x : Rec} (hx : recordAt s i = some x)
    (tag : BitVec 16) (priority : Fin 4) (share : Bool) : TimingFrom 1 (relabelRecord s i x tag priority share) := by
  have hwritten := h.putRecord (y := { x with tag := tag, priority := priority, share := share }) hx
    (h.legal i x hx) rfl
  unfold Machine.relabelRecord
  dsimp only
  split <;> exact hwritten.congr rfl rfl rfl rfl

theorem relabelAnswer_leaves {s : State} (h : TimingFrom 1 s) (r : Serving) :
    (relabelAnswer s r).Leaves (TimingFrom 1) := by
  unfold relabelAnswer
  split
  · exact leaves_withOwned fun _ hx _ => h.relabelRecord (recordAt_of_liveRecord hx) _ _ _
  · exact leaves_refuse _ _

/-! ### ARM, DISARM and REVISE -/

/-- A record that may be armed has no due time and no trigger to wait for, or one (R63). -/
theorem legalEffect_armEffect {s : State} {x : Rec} (h : LegalRecord x) (hstate : x.state = .idle ∨ x.state = .fired)
    (htrigger : ¬ (x.mode = .delayed ∧ x.triggerBinding = none)) : LegalEffect s.tableTime x.dueTime (armEffect s x) := by
  obtain ⟨hrecord, _⟩ := h
  have hnone : x.dueTime = none := dueTime_eq_none hrecord (by obtain hs | hs := hstate <;> simp [hs])
  rw [hnone]
  refine legalEffect_armRecord (recordLaw_takeStaged hrecord) (takeStaged_staged x) _ fun hmode => ?_
  rw [takeStaged_mode] at hmode
  rw [takeStaged_triggerBinding, Option.isSome_iff_ne_none]
  exact fun hb => htrigger ⟨hmode, hb⟩

theorem armAnswer_leaves {s : State} (h : TimingFrom 1 s) (r : Serving) : (armAnswer s r).Leaves (TimingFrom 1) := by
  refine leaves_withOwned fun x hx _ => ?_
  have hr := recordAt_of_liveRecord hx
  split
  · exact leaves_refuse _ _
  · next hstate =>
    split
    · exact leaves_refuse _ _
    · next htrigger =>
      have hstate' : x.state = .idle ∨ x.state = .fired := by tauto
      exact h.applyEffect le_rfl hr (legalEffect_armEffect (h.legal _ x hr) hstate' htrigger)

theorem disarmAnswer_leaves {s : State} (h : TimingFrom 1 s) (r : Serving) :
    (disarmAnswer s r).Leaves (TimingFrom 1) := by
  refine leaves_withOwned fun x hx _ => ?_
  have hr := recordAt_of_liveRecord hx
  obtain ⟨hrecord, _⟩ := h.legal _ x hr
  split
  · exact leaves_refuse _ _
  · exact h.applyEffect le_rfl hr (legalEffect_disarmRecord hrecord _ _)

theorem reviseAnswer_leaves {s : State} (h : TimingFrom 1 s) (r : Serving) :
    (reviseAnswer s r).Leaves (TimingFrom 1) := by
  unfold reviseAnswer
  split
  · exact leaves_refuse _ _
  · next hrange =>
    rw [not_or, Bool.not_eq_true] at hrange
    obtain ⟨hzero, hlong⟩ := hrange
    refine leaves_withOwned fun x hx _ => ?_
    have hr := recordAt_of_liveRecord hx
    rw [reviseTooShort, hx] at hlong
    exact h.applyEffect le_rfl hr (legalEffect_reviseRecord (h.legal _ x hr) (periodInRange_arg3 hzero hlong))

/-! ### Lines: only an IDLE record changes its bindings (R107, R111, R112) -/

/-- An IDLE record newly bound to an output line is INACTIVE, and one bound to none has no level (R59, R111). -/
theorem legalRecord_outputBound {x : Rec} (h : LegalRecord x) (hidle : x.state = .idle) (binding : Option Line) :
    LegalRecord { x with outputBinding := binding, outputLevel := binding.map fun _ => .inactive } := by
  obtain ⟨⟨htakes, hperiod, hstaged, hdue, hremaining, hrange, hphase, _, hrest⟩, _⟩ := h
  refine ⟨⟨htakes, hperiod, hstaged, hdue, hremaining, hrange, hphase, Option.isSome_map, hrest⟩,
    levelLaw_of_holdsLevel (tableLevel_idle hidle) fun hbound => ?_⟩
  obtain ⟨k, hk⟩ := Option.isSome_iff_exists.1 hbound
  show Option.map _ binding = _
  rw [show binding = some k from hk]
  rfl

/-- Only a DELAYED record that is not IDLE needs its trigger binding (Table 1-1). -/
theorem legalRecord_triggerBound {x : Rec} (h : LegalRecord x) (hidle : x.state = .idle) (binding : Option Line) :
    LegalRecord { x with triggerBinding := binding } := by
  obtain ⟨⟨htakes, hperiod, hstaged, hdue, hremaining, hrange, hphase, hlevel, _, hreport⟩, htable⟩ := h
  exact ⟨⟨htakes, hperiod, hstaged, hdue, hremaining, hrange, hphase, hlevel, fun _ hn => absurd hidle hn, hreport⟩, htable⟩

theorem releaseBinding_slots (s : State) (binding : Option Line) : (releaseBinding s binding).slots = s.slots := by
  cases binding <;> rfl

theorem TimingFrom.releaseBinding {s : State} (h : TimingFrom 1 s) (binding : Option Line) :
    TimingFrom 1 (releaseBinding s binding) := by
  cases binding with
  | none => exact h
  | some k => exact h.congr rfl rfl rfl rfl

theorem unlistenBinding_slots (s : State) (i : SlotId) (binding : Option Line) :
    (unlistenBinding s i binding).slots = s.slots := by
  cases binding <;> rfl

theorem TimingFrom.unlistenBinding {s : State} (h : TimingFrom 1 s) (i : SlotId) (binding : Option Line) :
    TimingFrom 1 (unlistenBinding s i binding) := by
  cases binding with
  | none => exact h
  | some k => exact h.congr rfl rfl rfl rfl

theorem TimingFrom.bindOutputRecord {s : State} (h : TimingFrom 1 s) {i : SlotId} {x : Rec} (hx : recordAt s i = some x)
    (hidle : x.state = .idle) (k : Line) : TimingFrom 1 (bindOutputRecord s i x k) := by
  unfold Machine.bindOutputRecord
  split
  · exact h
  · have hreleased : recordAt (Machine.releaseBinding s x.outputBinding) i = some x :=
      (recordAt_eq_of_slots (releaseBinding_slots s _) i).trans hx
    exact ((h.releaseBinding x.outputBinding).putRecord hreleased
      (legalRecord_outputBound (h.legal i x hx) hidle (some k)) rfl).congr rfl rfl rfl rfl

theorem bindOutputAnswer_leaves {s : State} (h : TimingFrom 1 s) (r : Serving) :
    (bindOutputAnswer s r).Leaves (TimingFrom 1) := by
  unfold bindOutputAnswer
  split
  · exact leaves_refuse _ _
  · refine leaves_withIdle fun x hx _ hidle => ?_
    split
    · exact leaves_refuse _ _
    · exact h.bindOutputRecord (recordAt_of_liveRecord hx) hidle _

theorem TimingFrom.bindTriggerRecord {s : State} (h : TimingFrom 1 s) {i : SlotId} {x : Rec} (hx : recordAt s i = some x)
    (hidle : x.state = .idle) (k : Line) : TimingFrom 1 (bindTriggerRecord s i x k) := by
  unfold Machine.bindTriggerRecord
  split
  · exact h
  · have hunlistened : recordAt (Machine.unlistenBinding s i x.triggerBinding) i = some x :=
      (recordAt_eq_of_slots (unlistenBinding_slots s i _) i).trans hx
    exact ((h.unlistenBinding i x.triggerBinding).putRecord hunlistened
      (legalRecord_triggerBound (h.legal i x hx) hidle (some k)) rfl).congr rfl rfl rfl rfl

theorem bindTriggerAnswer_leaves {s : State} (h : TimingFrom 1 s) (r : Serving) :
    (bindTriggerAnswer s r).Leaves (TimingFrom 1) := by
  unfold bindTriggerAnswer
  split
  · exact leaves_refuse _ _
  · exact leaves_withIdle fun x hx _ hidle => h.bindTriggerRecord (recordAt_of_liveRecord hx) hidle _

theorem TimingFrom.unbindOutput {s : State} (h : TimingFrom 1 s) {i : SlotId} {x : Rec} (hx : recordAt s i = some x)
    (hidle : x.state = .idle) : TimingFrom 1 (unbindOutput s i x) := by
  unfold Machine.unbindOutput
  cases x.outputBinding with
  | none => exact h
  | some k => exact (h.putRecord hx (legalRecord_outputBound (h.legal i x hx) hidle none) rfl).congr rfl rfl rfl rfl

theorem TimingFrom.unbindTrigger {s : State} (h : TimingFrom 1 s) {i : SlotId} {x : Rec} (hx : recordAt s i = some x)
    (hidle : x.state = .idle) : TimingFrom 1 (unbindTrigger s i x) := by
  unfold Machine.unbindTrigger
  cases x.triggerBinding with
  | none => exact h
  | some k => exact (h.putRecord hx (legalRecord_triggerBound (h.legal i x hx) hidle none) rfl).congr rfl rfl rfl rfl

theorem unbindAnswer_leaves {s : State} (h : TimingFrom 1 s) (r : Serving) :
    (unbindAnswer s r).Leaves (TimingFrom 1) := by
  unfold unbindAnswer
  split
  · exact leaves_refuse _ _
  · next kind _ =>
    refine leaves_withIdle fun x hx _ hidle => ?_
    have hr := recordAt_of_liveRecord hx
    cases kind with
    | output => exact h.unbindOutput hr hidle
    | trigger => exact h.unbindTrigger hr hidle

/-! ### Attention -/

theorem TimingFrom.takeEntry {s : State} (h : TimingFrom 1 s) (c : Client) (i : SlotId) :
    TimingFrom 1 (takeEntry s c i) := by
  have hleft : TimingFrom 1 (leaveSet s c i) := h.congr rfl rfl rfl rfl
  exact hleft.mapRecord i (fun _ hlegal => legalRecord_acknowledged hlegal) fun _ => rfl

theorem TimingFrom.takeEntries {s : State} (h : TimingFrom 1 s) (c : Client) (l : List SlotId) :
    TimingFrom 1 (takeEntries s c l) := by
  induction l generalizing s with
  | nil => exact h
  | cons i rest ih => exact ih (h.takeEntry c i)

theorem collectAnswer_leaves {s : State} (h : TimingFrom 1 s) (r : Serving) :
    (collectAnswer s r).Leaves (TimingFrom 1) := by
  unfold collectAnswer
  split
  · exact leaves_refuse _ _
  · exact (h.takeEntries r.port _).congr rfl rfl rfl rfl

theorem acknowledgeAnswer_leaves {s : State} (h : TimingFrom 1 s) (r : Serving) :
    (acknowledgeAnswer s r).Leaves (TimingFrom 1) := by
  refine leaves_withOwned fun x _ _ => ?_
  split
  · exact (h.takeEntry r.port _).congr rfl rfl rfl rfl
  · exact h

/-! ### Offers -/

theorem TimingFrom.openOffer {s : State} (h : TimingFrom 1 s) {i : SlotId} {x : Rec} (hx : recordAt s i = some x)
    (o : Offer) : TimingFrom 1 (openOffer s i x o) := by
  have hs : TimingFrom 1 { s with offers := s.offers ++ [o] } := h.congr rfl rfl rfl rfl
  exact (hs.putRecord (y := { x with offered := true }) hx (h.legal i x hx) rfl).congr rfl rfl rfl rfl

theorem offerAnswer_leaves {s : State} (h : TimingFrom 1 s) (r : Serving) :
    (offerAnswer s r).Leaves (TimingFrom 1) := by
  unfold offerAnswer
  split
  · exact leaves_refuse _ _
  · split
    · exact leaves_refuse _ _
    · refine leaves_withOwned fun x hx _ => ?_
      unfold offerRecord
      split_ifs
      · exact leaves_refuse _ _
      · exact leaves_refuse _ _
      · exact leaves_refuse _ _
      · exact h.openOffer (recordAt_of_liveRecord hx) _

/-- The record that is handed over keeps every field but the owner and the offer (R141). -/
theorem TimingFrom.acceptRecord {s : State} (h : TimingFrom 1 s) {i : SlotId} {x : Rec} (hx : recordAt s i = some x)
    (c : Client) : TimingFrom 1 (acceptRecord s i x c) := by
  have hx' : recordAt (Machine.removeOffer s i) i = some { x with offered := false } := by
    rw [Machine.removeOffer, recordAt_mapRecord, if_pos rfl]
    exact congrArg (Option.map fun r : Rec => { r with offered := false }) hx
  have hhanded := (h.removeOffer i).putRecord (y := { x with owner := c, offered := false }) hx' (h.legal i x hx) rfl
  unfold Machine.acceptRecord moveEntry
  dsimp only
  split <;> exact hhanded.congr rfl rfl rfl rfl

theorem acceptAnswer_leaves {s : State} (h : TimingFrom 1 s) (r : Serving) :
    (acceptAnswer s r).Leaves (TimingFrom 1) := by
  refine leaves_withIncoming fun x o hx _ _ => ?_
  split
  · exact leaves_refuse _ _
  · exact h.acceptRecord (recordAt_of_liveRecord hx) r.port

theorem declineAnswer_leaves {s : State} (h : TimingFrom 1 s) (r : Serving) :
    (declineAnswer s r).Leaves (TimingFrom 1) :=
  leaves_withIncoming fun _ o _ _ _ => h.endOffer o

theorem withdrawAnswer_leaves {s : State} (h : TimingFrom 1 s) (r : Serving) :
    (withdrawAnswer s r).Leaves (TimingFrom 1) := by
  refine leaves_withOwned fun _ _ _ => ?_
  split
  · exact leaves_refuse _ _
  · exact h.endOffer _

/-! ### Time, supervision, and the requests that leave the records as they are -/

theorem startTimeAnswer_leaves {s : State} (h : TimingFrom 1 s) (r : Serving) :
    (startTimeAnswer s r).Leaves (TimingFrom 1) := by
  unfold startTimeAnswer
  split_ifs
  · exact leaves_refuse _ _
  · exact leaves_refuse _ _
  · exact h.startTime _ _

theorem purgeClientAnswer_leaves {s : State} (h : TimingFrom 1 s) (r : Serving) :
    (purgeClientAnswer s r).Leaves (TimingFrom 1) := by
  unfold purgeClientAnswer
  split
  · exact leaves_refuse _ _
  · split
    · exact leaves_refuse _ _
    · exact h.markClient _

/-- The state has the records, the free list, the table time and the schedule of `s`. -/
def SameTiming (s t : State) : Prop :=
  t.slots = s.slots ∧ t.freeList = s.freeList ∧ t.tableTime = s.tableTime ∧ t.schedule = s.schedule

theorem SameTiming.refl (s : State) : SameTiming s s := ⟨rfl, rfl, rfl, rfl⟩

theorem TimingFrom.of_sameTiming {s t : State} (h : TimingFrom 1 s) (ht : SameTiming s t) : TimingFrom 1 t := by
  obtain ⟨hslots, hfree, htime, hschedule⟩ := ht
  exact h.congr hslots hfree htime hschedule

theorem leaves_mono {P Q : State → Prop} {a : Answer} (h : a.Leaves P) (hpq : ∀ t, P t → Q t) : a.Leaves Q := by
  cases a with
  | refuse code => exact leaves_refuse Q code
  | accept code payload t => exact hpq t h

theorem queryAnswer_leaves (s : State) (r : Serving) : (queryAnswer s r).Leaves (SameTiming s) := by
  unfold queryAnswer
  split
  · exact SameTiming.refl s
  · exact leaves_refuse _ _

theorem querySetAnswer_leaves (s : State) (r : Serving) : (querySetAnswer s r).Leaves (SameTiming s) := by
  unfold querySetAnswer
  split
  · exact leaves_refuse _ _
  · exact SameTiming.refl s

theorem setMaskAnswer_leaves (s : State) (r : Serving) : (setMaskAnswer s r).Leaves (SameTiming s) := by
  unfold setMaskAnswer
  split
  · exact leaves_refuse _ _
  · exact ⟨rfl, rfl, rfl, rfl⟩

theorem setReleasePolicyAnswer_leaves (s : State) (r : Serving) :
    (setReleasePolicyAnswer s r).Leaves (SameTiming s) := by
  unfold setReleasePolicyAnswer
  split
  · exact leaves_refuse _ _
  · exact ⟨rfl, rfl, rfl, rfl⟩

theorem stopTimeAnswer_leaves (s : State) (r : Serving) : (stopTimeAnswer s r).Leaves (SameTiming s) := by
  unfold stopTimeAnswer
  split
  · exact leaves_refuse _ _
  · exact ⟨rfl, rfl, rfl, rfl⟩

theorem configureTriggerAnswer_leaves (s : State) (r : Serving) :
    (configureTriggerAnswer s r).Leaves (SameTiming s) := by
  unfold configureTriggerAnswer
  split
  · split
    · exact leaves_refuse _ _
    · exact ⟨rfl, rfl, rfl, rfl⟩
  · exact leaves_refuse _ _

theorem configureOutputAnswer_leaves (s : State) (r : Serving) :
    (configureOutputAnswer s r).Leaves (SameTiming s) := by
  unfold configureOutputAnswer
  split
  · split
    · exact leaves_refuse _ _
    · exact ⟨rfl, rfl, rfl, rfl⟩
  · exact leaves_refuse _ _

theorem setQuotaAnswer_leaves (s : State) (r : Serving) : (setQuotaAnswer s r).Leaves (SameTiming s) := by
  unfold setQuotaAnswer
  split
  · exact leaves_refuse _ _
  · split_ifs
    · exact leaves_refuse _ _
    · exact leaves_refuse _ _
    · exact ⟨rfl, rfl, rfl, rfl⟩

theorem grantControlAnswer_leaves (s : State) (r : Serving) : (grantControlAnswer s r).Leaves (SameTiming s) := by
  unfold grantControlAnswer
  split
  · exact leaves_refuse _ _
  · exact ⟨rfl, rfl, rfl, rfl⟩

theorem revokeControlAnswer_leaves (s : State) (r : Serving) : (revokeControlAnswer s r).Leaves (SameTiming s) := by
  unfold revokeControlAnswer
  split
  · exact leaves_refuse _ _
  · split
    · exact leaves_refuse _ _
    · exact ⟨rfl, rfl, rfl, rfl⟩

/-! ### Ports -/

theorem selFalls_sameTiming (s : State) (p : Client) : SameTiming s (selFalls s p) := by
  unfold selFalls
  split <;> exact ⟨rfl, rfl, rfl, rfl⟩

theorem submitRises_sameTiming (s : State) (p : Client) (mosi : List Byte) : SameTiming s (submitRises s p mosi) := by
  unfold submitRises
  dsimp only
  split_ifs <;> exact ⟨rfl, rfl, rfl, rfl⟩

theorem fetchRises_sameTiming (s : State) (p : Client) (mosi : List Byte) : SameTiming s (fetchRises s p mosi) := by
  unfold fetchRises
  dsimp only
  split_ifs <;> exact ⟨rfl, rfl, rfl, rfl⟩

theorem ignoredRises_sameTiming (s : State) (p : Client) (mosi : List Byte) : SameTiming s (ignoredRises s p mosi) := by
  unfold ignoredRises
  dsimp only
  split_ifs <;> exact ⟨rfl, rfl, rfl, rfl⟩

theorem selectPort_sameTiming (s : State) (p : Client) : SameTiming s (selectPort s p) := by
  unfold selectPort
  split <;> exact ⟨rfl, rfl, rfl, rfl⟩

/-! ### The purge scan and RESET -/

theorem TimingFrom.purgeStep {s : State} (h : TimingFrom 1 s) (c : Client) (i : SlotId) :
    TimingFrom 1 (moveCursor (examineSlot s c i) c i) := by
  have hexamined : TimingFrom 1 (examineSlot s c i) := by
    unfold examineSlot
    cases hr : recordAt s i with
    | none => exact h
    | some r =>
      dsimp only
      split
      · exact h.retireRecord hr
      · exact h
  unfold moveCursor
  split <;> exact hexamined.congr rfl rfl rfl rfl

/-- After RESET there are no records, and every slot is free (R11). -/
theorem timingFrom_afterReset (pins : Pins) : TimingFrom 1 (State.afterReset pins) := by
  have hnone : ∀ i, recordAt (State.afterReset pins) i = none := fun i => by
    rw [recordAt, State.afterReset, Table.get_fill]
  have hfree : FreeSlotsLaw (State.afterReset pins) := by
    refine ⟨?_, fun i _ => hnone i⟩
    simp only [State.afterReset, allSlots]
    exact List.nodup_finRange 2048
  have hschedule : (State.afterReset pins).schedule = [] := rfl
  refine ⟨hfree, fun i r hr => ?_, List.nodup_nil, fun i due => ?_, fun e he => ?_,
    List.Pairwise.nil⟩
  · rw [hnone] at hr
    cases hr
  · rw [dueAt, hnone, hschedule]
    simp
  · rw [hschedule] at he
    cases he

/-- The model's own counters, which a RESET leaves, stand outside the law (log entry 20). -/
theorem TimingFrom.withPending {s : State} (h : TimingFrom 1 s) (draws : Nat) (pending : List Instr) :
    TimingFrom 1 { s with freeDraws := draws, pending := pending } := h.congr rfl rfl rfl rfl

/-! ### Every command -/

theorem TimingFrom.takeRequest {s : State} (h : TimingFrom 1 s) (k : Kind) {act : State → Serving → Answer}
    (hact : ∀ r, (act s r).Leaves (TimingFrom 1)) : TimingFrom 1 (takeRequest s k act) :=
  takeRequest_keeps h (fun _ r code payload ht => ht.post r code payload) hact

/-- A request whose rule leaves records and schedule as they are. -/
theorem TimingFrom.takeRequest_of_sameTiming {s : State} (h : TimingFrom 1 s) (k : Kind)
    {act : State → Serving → Answer} (hact : ∀ r, (act s r).Leaves (SameTiming s)) :
    TimingFrom 1 (Machine.takeRequest s k act) :=
  h.takeRequest k fun r => leaves_mono (hact r) fun _ ht => h.of_sameTiming ht

/-- Every command, by its meaning. -/
theorem timingFrom_exec {c : Instr} {s t : State} (h : TimingFrom 1 s) (hexec : exec c s = .next t) :
    TimingFrom 1 t := by
  cases c with
  | submit p edge =>
    cases edge with
    | falls => cases hexec; exact h.of_sameTiming (selFalls_sameTiming s p)
    | rises mosi => cases hexec; exact h.of_sameTiming (submitRises_sameTiming s p mosi)
  | fetch p edge =>
    cases edge with
    | falls => cases hexec; exact h.of_sameTiming (selFalls_sameTiming s p)
    | rises mosi => cases hexec; exact h.of_sameTiming (fetchRises_sameTiming s p mosi)
  | ignoredTransfer p edge =>
    cases edge with
    | falls => cases hexec; exact h.of_sameTiming (selFalls_sameTiming s p)
    | rises mosi => cases hexec; exact h.of_sameTiming (ignoredRises_sameTiming s p mosi)
  | fetchCodeRecognised p =>
    simp only [exec, execFetchCodeRecognised] at hexec
    split at hexec
    · cases hexec; exact h.of_sameTiming (selFalls_sameTiming s p)
    · cases hexec; exact h.congr rfl rfl rfl rfl
  | selection =>
    simp only [exec, execSelection] at hexec
    split at hexec
    · cases hexec; exact h.of_sameTiming (selectPort_sameTiming s _)
    · cases hexec; exact h
    · cases hexec; exact h
  | unknownRequest =>
    simp only [exec, execUnknownRequest] at hexec
    split at hexec
    · cases hexec; exact h
    · split at hexec
      · cases hexec; exact h.post _ _ _
      · cases hexec; exact h
  | create => cases hexec; exact h.takeRequest .create (createAnswer_leaves h)
  | retire => cases hexec; exact h.takeRequest .retire (retireAnswer_leaves h)
  | arm => cases hexec; exact h.takeRequest .arm (armAnswer_leaves h)
  | disarm => cases hexec; exact h.takeRequest .disarm (disarmAnswer_leaves h)
  | revise => cases hexec; exact h.takeRequest .revise (reviseAnswer_leaves h)
  | relabel => cases hexec; exact h.takeRequest .relabel (relabelAnswer_leaves h)
  | query => cases hexec; exact h.takeRequest_of_sameTiming .query (queryAnswer_leaves s)
  | querySet => cases hexec; exact h.takeRequest_of_sameTiming .querySet (querySetAnswer_leaves s)
  | bindOutput => cases hexec; exact h.takeRequest .bindOutput (bindOutputAnswer_leaves h)
  | bindTrigger => cases hexec; exact h.takeRequest .bindTrigger (bindTriggerAnswer_leaves h)
  | unbind => cases hexec; exact h.takeRequest .unbind (unbindAnswer_leaves h)
  | collect => cases hexec; exact h.takeRequest .collect (collectAnswer_leaves h)
  | acknowledge => cases hexec; exact h.takeRequest .acknowledge (acknowledgeAnswer_leaves h)
  | setMask => cases hexec; exact h.takeRequest_of_sameTiming .setMask (setMaskAnswer_leaves s)
  | offer => cases hexec; exact h.takeRequest .offer (offerAnswer_leaves h)
  | accept => cases hexec; exact h.takeRequest .accept (acceptAnswer_leaves h)
  | decline => cases hexec; exact h.takeRequest .decline (declineAnswer_leaves h)
  | withdraw => cases hexec; exact h.takeRequest .withdraw (withdrawAnswer_leaves h)
  | listOffers => cases hexec; exact h.takeRequest .listOffers fun _ => h
  | readTime => cases hexec; exact h.takeRequest .readTime fun _ => h
  | startTime => cases hexec; exact h.takeRequest .startTime (startTimeAnswer_leaves h)
  | stopTime => cases hexec; exact h.takeRequest_of_sameTiming .stopTime (stopTimeAnswer_leaves s)
  | holdTime => cases hexec; exact h.takeRequest .holdTime fun _ => h.congr rfl rfl rfl rfl
  | releaseTime => cases hexec; exact h.takeRequest .releaseTime fun _ => h.congr rfl rfl rfl rfl
  | setReleasePolicy =>
    cases hexec; exact h.takeRequest_of_sameTiming .setReleasePolicy (setReleasePolicyAnswer_leaves s)
  | configureTrigger =>
    cases hexec; exact h.takeRequest_of_sameTiming .configureTrigger (configureTriggerAnswer_leaves s)
  | configureOutput =>
    cases hexec; exact h.takeRequest_of_sameTiming .configureOutput (configureOutputAnswer_leaves s)
  | setQuota => cases hexec; exact h.takeRequest_of_sameTiming .setQuota (setQuotaAnswer_leaves s)
  | grantControl => cases hexec; exact h.takeRequest_of_sameTiming .grantControl (grantControlAnswer_leaves s)
  | revokeControl => cases hexec; exact h.takeRequest_of_sameTiming .revokeControl (revokeControlAnswer_leaves s)
  | purgeClient => cases hexec; exact h.takeRequest .purgeClient (purgeClientAnswer_leaves h)
  | deviceStatus => cases hexec; exact h.takeRequest .deviceStatus fun _ => h
  | purgeStep =>
    simp only [exec, execPurgeStep] at hexec
    split at hexec
    · cases hexec; exact h
    · cases hexec; exact h.purgeStep _ _
  | portReset p =>
    have hreset : TimingFrom 1 (assertPortReset s p) := h.congr rfl rfl rfl rfl
    simp only [exec, execPortReset] at hexec
    split_ifs at hexec
    · cases hexec; exact h
    · cases hexec; exact hreset
    · cases hexec; exact hreset.markClient p
  | portResetRelease p =>
    simp only [exec, execPortResetRelease] at hexec
    split at hexec
    · cases hexec; exact h.congr rfl rfl rfl rfl
    · cases hexec; exact h
  | holdinAsserts => cases hexec; exact h.congr rfl rfl rfl rfl
  | holdinDeasserts => cases hexec; exact h.congr rfl rfl rfl rfl
  | triggerEvent k level =>
    simp only [exec, execTriggerEvent] at hexec
    split at hexec
    · cases hexec; exact h
    · have hwritten : TimingFrom 1 (putTrg s k { s.trg.get k with level := level }) := h.congr rfl rfl rfl rfl
      cases hexec; exact hwritten.deliverAll _ _
  | owedAdvance =>
    simp only [exec, execOwedAdvance] at hexec
    split at hexec
    · cases hexec; exact h.congr rfl rfl rfl rfl
    · cases hexec; exact h
  | advance =>
    simp only [exec, execAdvance] at hexec
    split at hexec
    · cases hexec; exact h.tick.expireAll rfl
    · cases hexec; exact h
  | expiry =>
    simp only [exec, execExpiry, h.dueNow_eq_nil] at hexec
    cases hexec; exact h
  | lapse i =>
    simp only [exec, execLapse] at hexec
    split at hexec
    · cases hexec; exact h
    · split at hexec
      · cases hexec; exact h.endOffer _
      · cases hexec; exact h
  | reset pins => cases hexec; exact (timingFrom_afterReset pins).withPending s.freeDraws s.pending
  | refclkPhaseEdge =>
    simp only [exec, execRefclkPhaseEdge] at hexec
    split at hexec
    · cases hexec; exact h.congr rfl rfl rfl rfl
    · cases hexec; exact h

end Sys2Proof.Machine
end

section
/-! CERTIFICATE. The statements about the schedule and expiry (03_the_schedule_and_expiry.md). -/

namespace Sys2Proof.Claims

open Sys2Proof.Machine Sys2Proof.Safety

/-- Settles O9: `TimingLaw` is `TimingFrom 1`, which every command keeps. Within an advance only `TimingFrom 0` holds, until the
last record due at the new table time has expired. -/
theorem timingLawKept : Obligations.TimingLawKept :=
  keptByStep_of_exec
    (fun _ _ h => timingFrom_one_iff.1 ((timingFrom_one_iff.2 h).congr rfl rfl rfl rfl))
    fun _ _ _ h hexec => timingFrom_one_iff.1 (timingFrom_exec (timingFrom_one_iff.2 h) hexec)

end Sys2Proof.Claims
end

section
/-! SUPPORT. The mode rules in the vocabulary of the statements: what an assert and a deassert make of a record that meets
the record law, field by field, and what a delivery leaves of the state. -/

namespace Sys2Proof.Machine

open Sys2Proof.Safety Sys2Proof.Claims

/-! ### Fields the record law leaves absent or ties to a binding (Table 1-1) -/

theorem remaining_eq_none {r : Rec} (h : RecordLaw r) (hcount : ¬ (r.state = .suspended ∧ r.mode = .single)) :
    r.remaining = none := by
  obtain ⟨_, _, _, _, hremaining, _⟩ := h
  rwa [← Option.not_isSome_iff_eq_none, hremaining]

theorem remaining_eq_none_of_mode {r : Rec} (h : RecordLaw r) (hmode : r.mode ≠ .single) : r.remaining = none :=
  remaining_eq_none h fun hcount => hmode hcount.2

theorem phase_eq_none {r : Rec} (h : RecordLaw r) (hphase : ¬ (r.state = .armed ∧ r.mode = .square)) : r.phase = none := by
  obtain ⟨_, _, _, _, _, _, hiff, _⟩ := h
  rwa [← Option.not_isSome_iff_eq_none, hiff]

theorem outputLevel_isSome {r : Rec} (h : RecordLaw r) : r.outputLevel.isSome = r.outputBinding.isSome := by
  obtain ⟨_, _, _, _, _, _, _, hlevel, _⟩ := h
  exact hlevel

/-! ### The parts of a rule -/

@[simp] theorem takeStaged_period (r : Rec) : (takeStaged r).period = periodOf r := by rw [takeStaged_eq, applied]

/-- A level written into a form `y` of a record that still has the record's binding and level (R59). -/
theorem setLevel_of_recordLaw {r y : Rec} {l : OutLevel} (h : RecordLaw r) (hlevel : y.outputLevel = r.outputLevel)
    (hbinding : y.outputBinding = r.outputBinding) :
    setLevel y l = { y with outputLevel := heldLevel r l } := by
  have hsome : y.outputLevel.isSome = y.outputBinding.isSome := by rw [hlevel, hbinding, outputLevel_isSome h]
  rw [setLevel_eq hsome, heldLevel, heldLevel, hbinding]

/-- A record with no count left over is ARMED by its state and its due time alone, once its staged period has been applied. -/
theorem armedAt_takeStaged {r : Rec} (hremaining : r.remaining = none) (due : Time) :
    armedAt (takeStaged r) due = { applied r with state := .armed, dueTime := some due } := by
  rw [takeStaged_eq, armedAt, ← hremaining]
  rfl

/-- The start of the first HIGH half of a SQUARE record (R75, R78). -/
theorem startHigh_takeStaged {r : Rec} (h : RecordLaw r) (hmode : r.mode = .square) (origin : Time) :
    startHigh (takeStaged r) origin =
      { applied r with
        state := .armed, dueTime := some (after origin ((periodOf r + 1) / 2)), phase := some .high,
        outputLevel := heldLevel r .active } := by
  have hremaining : r.remaining = none := remaining_eq_none_of_mode h (by simp [hmode])
  rw [startHigh, armedAt_takeStaged hremaining, takeStaged_eq]
  exact setLevel_of_recordLaw h rfl rfl

/-! ### Asserts (R60, R69, R73, R78, R81, R84) -/

section Asserts

variable {now : Time} {r : Rec}

theorem assertRecord_single {n : Nat} (hmode : r.mode = .single) (hstate : r.state = .suspended)
    (hremaining : r.remaining = some n) :
    assertRecord now r =
      some (timed { r with state := .armed, dueTime := some (after now n), remaining := none } false) := by
  simp [assertRecord, hmode, hstate, hremaining, armedAt]

theorem assertRecord_cyclic (h : RecordLaw r) (hmode : r.mode = .cyclic) (hstate : r.state = .suspended) :
    assertRecord now r =
      some (timed { applied r with state := .armed, dueTime := some (after now (periodOf r)) } false) := by
  have hremaining : r.remaining = none := remaining_eq_none_of_mode h (by simp [hmode])
  simp only [assertRecord, hmode, hstate, armedAt_takeStaged hremaining]
  rw [takeStaged_eq]
  rfl

theorem assertRecord_square (h : RecordLaw r) (hmode : r.mode = .square) (hstate : r.state = .suspended) :
    assertRecord now r =
      some (timed
        { applied r with
          state := .armed, dueTime := some (after now ((periodOf r + 1) / 2)), phase := some .high,
          outputLevel := heldLevel r .active } false) := by
  simp only [assertRecord, hmode, hstate, startHigh_takeStaged h hmode]

/-- In WAITING the assert starts the count, and in ARMED it starts it again. -/
theorem assertRecord_delayed (h : RecordLaw r) (hmode : r.mode = .delayed) (hstate : r.state = .waiting ∨ r.state = .armed) :
    assertRecord now r =
      some (timed
        { applied r with
          state := .armed, dueTime := some (after now (periodOf r)), outputLevel := heldLevel r .active } false) := by
  have hremaining : r.remaining = none := remaining_eq_none_of_mode h (by simp [hmode])
  have hrule : assertRecord now r =
      some (timed (setLevel (armedAt (takeStaged r) (after now (takeStaged r).period)) .active) false) := by
    obtain hstate | hstate := hstate <;> simp only [assertRecord, hmode, hstate]
  rw [hrule, armedAt_takeStaged hremaining, takeStaged_eq]
  exact congrArg (fun y => some (timed y false)) (setLevel_of_recordLaw h rfl rfl)

theorem assertRecord_watch (h : RecordLaw r) (hmode : r.mode = .watch) (hstate : r.state = .armed) :
    assertRecord now r = some (timed { applied r with dueTime := some (after now (periodOf r)) } false) := by
  have hremaining : r.remaining = none := remaining_eq_none_of_mode h (by simp [hmode])
  simp only [assertRecord, hmode, hstate, armedAt_takeStaged hremaining]
  rw [takeStaged_eq, ← hstate]
  rfl

/-- An assert is contrary to IDLE and FIRED in every mode. -/
theorem assertRecord_of_idle_or_fired (hstate : r.state = .idle ∨ r.state = .fired) : assertRecord now r = none := by
  unfold assertRecord
  obtain hstate | hstate := hstate <;> rw [hstate] <;> cases r.mode <;> rfl

/-- An assert is contrary to ARMED in the modes whose count it does not restart. -/
theorem assertRecord_of_armed (hstate : r.state = .armed) (hdelayed : r.mode ≠ .delayed) (hwatch : r.mode ≠ .watch) :
    assertRecord now r = none := by
  unfold assertRecord
  rw [hstate]
  cases hmode : r.mode with
  | single | cyclic | square => rfl
  | delayed => exact absurd hmode hdelayed
  | watch => exact absurd hmode hwatch

end Asserts

/-! ### Deasserts (R60, R68, R74, R79) -/

section Deasserts

variable {now : Time} {r : Rec}

theorem deassertRecord_single {due : Time} (h : RecordLaw r) (hmode : r.mode = .single) (hstate : r.state = .armed)
    (hdue : r.dueTime = some due) :
    deassertRecord now r =
      some { record := { r with state := .suspended, dueTime := none, remaining := some (ahead now due) },
             schedule := .remove, fires := false } := by
  have hphase : r.phase = none := phase_eq_none h (by simp [hmode])
  simp [deassertRecord, hmode, hstate, hdue, untimed, hphase]

theorem deassertRecord_cyclic_or_square (h : RecordLaw r) (hmode : r.mode = .cyclic ∨ r.mode = .square)
    (hstate : r.state = .armed) :
    deassertRecord now r =
      some { record :=
               { r with state := .suspended, dueTime := none, phase := none, outputLevel := heldLevel r .inactive },
             schedule := .remove, fires := false } := by
  have hremaining : r.remaining = none := remaining_eq_none h (by simp [hstate])
  have hlevel : setLevel (untimed r .suspended) .inactive =
      { untimed r .suspended with outputLevel := heldLevel r .inactive } := setLevel_of_recordLaw h rfl rfl
  have hrule : deassertRecord now r =
      some { record := setLevel (untimed r .suspended) .inactive, schedule := .remove, fires := false } := by
    obtain hmode | hmode := hmode <;> simp only [deassertRecord, hmode, hstate]
  rw [hrule, hlevel, untimed, hremaining]

/-- A deassert is contrary to every state but ARMED. -/
theorem deassertRecord_of_not_armed (hstate : r.state ≠ .armed) : deassertRecord now r = none := by
  unfold deassertRecord
  cases hs : r.state with
  | armed => exact absurd hs hstate
  | idle | suspended | waiting | fired => cases r.mode <;> rfl

/-- DELAYED and WATCH records take no deassert. -/
theorem deassertRecord_of_delayed_or_watch (hmode : r.mode = .delayed ∨ r.mode = .watch) : deassertRecord now r = none := by
  unfold deassertRecord
  obtain hmode | hmode := hmode <;> rw [hmode]

end Deasserts

/-! ### Deliveries (R60, R104) -/

section Deliveries

variable {s : State} {i : SlotId} {x : Rec} {assert : Bool}

/-- A record that leaves its rule with a due time is placed there. -/
theorem applyEffect_timed {y : Rec} {due : Time} (hline : OnItsLine s i x) (hbinding : y.outputBinding = x.outputBinding)
    (hdue : y.dueTime = some due) : applyEffect s i (timed y false) = changed s i y (scheduled s i due) := by
  rw [timed, placed, hdue]
  exact applyEffect_changed hline y (.place due) hbinding

theorem deliver_contrary (hx : recordAt s i = some x) (hrule : eventRule assert s.tableTime x = none) :
    deliver assert s i = s := by
  rw [deliver, hx]
  simp only [hrule]

theorem deliver_effect (hx : recordAt s i = some x) {e : Effect} (hrule : eventRule assert s.tableTime x = some e) :
    deliver assert s i = applyEffect s i e := by
  rw [deliver, hx]
  simp only [hrule]

/-- An event that gives the record a due time. -/
theorem deliver_timed (hx : recordAt s i = some x) (hline : OnItsLine s i x) {y : Rec} {due : Time}
    (hrule : eventRule assert s.tableTime x = some (timed y false)) (hbinding : y.outputBinding = x.outputBinding)
    (hdue : y.dueTime = some due) : deliver assert s i = changed s i y (scheduled s i due) := by
  rw [deliver_effect hx hrule, applyEffect_timed hline hbinding hdue]

/-- An event that takes the record out of the schedule. -/
theorem deliver_untimed (hx : recordAt s i = some x) (hline : OnItsLine s i x) {y : Rec}
    (hrule : eventRule assert s.tableTime x = some { record := y, schedule := .remove, fires := false })
    (hbinding : y.outputBinding = x.outputBinding) : deliver assert s i = changed s i y (unscheduled s i) := by
  rw [deliver_effect hx hrule]
  exact applyEffect_changed hline y .remove hbinding

end Deliveries

end Sys2Proof.Machine
end

section
/-! SUPPORT. ARM and DISARM of a record of the requester: the branches of their rules, the effect in every mode, and the
bytes of the answer. -/

namespace Sys2Proof.Machine

open Sys2Proof.Safety Sys2Proof.Claims

/-! ### The gate (R61, R106) -/

theorem gateActive_eq_false_iff {s : State} {x : Rec} : gateActive s x = false ↔ GateClosed s x := by
  unfold gateActive GateClosed
  cases x.triggerBinding with
  | none => simp
  | some k => simp [TrgLine.active]

theorem gateActive_eq_true_iff {s : State} {x : Rec} : gateActive s x = true ↔ ¬ GateClosed s x := by
  rw [← gateActive_eq_false_iff, Bool.not_eq_false]

/-! ### What ARM makes of a record (R67, R71, R75, R80, R83) -/

section Arm

variable {s : State} {x : Rec}

/-- IDLE and FIRED are the states from which a record may be armed (R63). -/
def AtRest (x : Rec) : Prop := x.state = .idle ∨ x.state = .fired

theorem remaining_eq_none_of_atRest (h : RecordLaw x) (hrest : AtRest x) : x.remaining = none :=
  remaining_eq_none h (by obtain hstate | hstate := hrest <;> simp [hstate])

theorem phase_eq_none_of_atRest (h : RecordLaw x) (hrest : AtRest x) : x.phase = none :=
  phase_eq_none h (by obtain hstate | hstate := hrest <;> simp [hstate])

theorem dueTime_eq_none_of_atRest (h : RecordLaw x) (hrest : AtRest x) : x.dueTime = none :=
  dueTime_eq_none h (by obtain hstate | hstate := hrest <;> simp [hstate])

theorem setLevel_takeStaged {l : OutLevel} (h : RecordLaw x) :
    setLevel (takeStaged x) l = { applied x with outputLevel := heldLevel x l } := by
  rw [takeStaged_eq]
  exact setLevel_of_recordLaw h rfl rfl

/-- The start of a count with the output INACTIVE. -/
theorem armedAt_inactive (h : RecordLaw x) (hrest : AtRest x) (due : Time) :
    armedAt (setLevel (takeStaged x) .inactive) due =
      { applied x with state := .armed, dueTime := some due, outputLevel := heldLevel x .inactive } := by
  rw [setLevel_takeStaged h, armedAt, ← remaining_eq_none_of_atRest h hrest]
  rfl

/-- A wait for a trigger, with the output INACTIVE; of the timing there is nothing to remove. -/
theorem untimed_inactive (h : RecordLaw x) (hrest : AtRest x) (state : RecState) :
    untimed (setLevel (takeStaged x) .inactive) state =
      { applied x with state := state, outputLevel := heldLevel x .inactive } := by
  simp [setLevel_takeStaged h, untimed, applied, remaining_eq_none_of_atRest h hrest, phase_eq_none_of_atRest h hrest,
    dueTime_eq_none_of_atRest h hrest]

/-- SINGLE and CYCLIC with the gate open, and WATCH, which samples none, start a count of the period. -/
theorem armEffect_counting (h : RecordLaw x) (hrest : AtRest x)
    (hmode : (x.mode = .single ∨ x.mode = .cyclic) ∧ ¬ GateClosed s x ∨ x.mode = .watch) :
    armEffect s x =
      timed
        { applied x with
          state := .armed, dueTime := some (after s.tableTime (periodOf x)), outputLevel := heldLevel x .inactive }
        false := by
  have harmed := armedAt_inactive h hrest (after s.tableTime (takeStaged x).period)
  rw [← takeStaged_period, ← harmed]
  obtain ⟨hmode | hmode, hgate⟩ | hmode := hmode
  · simp [armEffect, armRecord, hmode, gateActive_eq_true_iff.2 hgate]
  · simp [armEffect, armRecord, hmode, gateActive_eq_true_iff.2 hgate]
  · simp [armEffect, armRecord, hmode]

theorem armEffect_square_open (h : RecordLaw x) (hmode : x.mode = .square) (hgate : ¬ GateClosed s x) :
    armEffect s x =
      timed
        { applied x with
          state := .armed, dueTime := some (after s.tableTime ((periodOf x + 1) / 2)), phase := some .high,
          outputLevel := heldLevel x .active }
        false := by
  rw [← startHigh_takeStaged h hmode]
  simp [armEffect, armRecord, hmode, gateActive_eq_true_iff.2 hgate]

theorem armEffect_single_closed (h : RecordLaw x) (hrest : AtRest x) (hmode : x.mode = .single) (hgate : GateClosed s x) :
    armEffect s x =
      { record :=
          { applied x with
            state := .suspended, remaining := some (periodOf x), outputLevel := heldLevel x .inactive },
        schedule := .keep, fires := false } := by
  have huntimed := untimed_inactive h hrest .suspended
  simp [armEffect, armRecord, hmode, gateActive_eq_false_iff.2 hgate, huntimed]

/-- CYCLIC and SQUARE with the gate closed are SUSPENDED, and no count is kept. -/
theorem armEffect_closed (h : RecordLaw x) (hrest : AtRest x) (hmode : x.mode = .cyclic ∨ x.mode = .square)
    (hgate : GateClosed s x) :
    armEffect s x =
      { record := { applied x with state := .suspended, outputLevel := heldLevel x .inactive }, schedule := .keep,
        fires := false } := by
  rw [← untimed_inactive h hrest]
  obtain hmode | hmode := hmode <;> simp [armEffect, armRecord, hmode, gateActive_eq_false_iff.2 hgate]

theorem armEffect_delayed (h : RecordLaw x) (hrest : AtRest x) (hmode : x.mode = .delayed) :
    armEffect s x =
      { record := { applied x with state := .waiting, outputLevel := heldLevel x .inactive }, schedule := .keep,
        fires := false } := by
  rw [← untimed_inactive h hrest]
  simp [armEffect, armRecord, hmode]

end Arm

/-! ### The answer to an ARM (R63, R176) -/

section ArmAnswer

variable {s : State} {i : SlotId} {x y : Rec}

/-- What an ARM of the requester's record `x` in slot `i` is answered (R63, steps 8 and 9). -/
def armRule (s : State) (i : SlotId) (x : Rec) : Answer :=
  if x.state ≠ .idle ∧ x.state ≠ .fired then .refuse .wrongState
  else if x.mode = .delayed ∧ x.triggerBinding = none then .refuse .noTrigger
  else .accept .ok (armPayload s.tableTime (armEffect s x).record) (applyEffect s i (armEffect s x))

theorem armAnswer_eq {r : Serving} {h : Handle} (hh : argHandle r.body 2 = h) :
    armAnswer s r = withOwned s r.port h (armRule s h.slot) := by
  subst hh
  rfl

theorem armRule_of_not_atRest (hidle : x.state ≠ .idle) (hfired : x.state ≠ .fired) :
    armRule s i x = .refuse .wrongState := if_pos ⟨hidle, hfired⟩

theorem not_busy_of_atRest (hrest : AtRest x) : ¬ (x.state ≠ .idle ∧ x.state ≠ .fired) := by
  rintro ⟨hidle, hfired⟩
  exact hrest.elim hidle hfired

theorem armRule_of_no_trigger (hrest : AtRest x) (hmode : x.mode = .delayed) (htrigger : x.triggerBinding = none) :
    armRule s i x = .refuse .noTrigger := by
  rw [armRule, if_neg (not_busy_of_atRest hrest), if_pos ⟨hmode, htrigger⟩]

theorem armRule_accepts (hrest : AtRest x) (htrigger : x.mode = .delayed → x.triggerBinding ≠ none) :
    armRule s i x =
      .accept .ok (armPayload s.tableTime (armEffect s x).record) (applyEffect s i (armEffect s x)) := by
  rw [armRule, if_neg (not_busy_of_atRest hrest), if_neg fun ⟨hmode, hnone⟩ => htrigger hmode hnone]

/-- The answer to an ARM that leaves the record ARMED and due in `n` ticks. -/
theorem armRule_timed {n : Nat} (hrest : AtRest x) (hline : OnItsLine s i x)
    (htrigger : x.mode = .delayed → x.triggerBinding ≠ none) (heffect : armEffect s x = timed y false)
    (hbinding : y.outputBinding = x.outputBinding) (hstate : y.state = .armed) (hremaining : y.remaining = none)
    (hdue : y.dueTime = some (after s.tableTime n)) (hn : TicksInRange n) :
    armRule s i x =
      .accept .ok ([1, 2] ++ timeBytes (after s.tableTime n) ++ byte3 n)
        (changed s i y (scheduled s i (after s.tableTime n))) := by
  have hpayload : armPayload s.tableTime y = [1, 2] ++ timeBytes (after s.tableTime n) ++ byte3 n := by
    rw [armPayload, hstate, hremaining, hdue, dueAndRemaining, optBytes, optBytes, timeAndTicks,
      ahead_after_of_inRange s.tableTime hn]
    rfl
  rw [armRule_accepts hrest htrigger, heffect, applyEffect_timed hline hbinding hdue, ← hpayload]
  rfl

/-- The answer to an ARM that leaves the record out of the schedule. -/
theorem armRule_untimed {payload : List Byte} (hrest : AtRest x) (hline : OnItsLine s i x)
    (htrigger : x.mode = .delayed → x.triggerBinding ≠ none)
    (heffect : armEffect s x = { record := y, schedule := .keep, fires := false })
    (hbinding : y.outputBinding = x.outputBinding) (hpayload : armPayload s.tableTime y = payload) :
    armRule s i x = .accept .ok payload (changed s i y s.schedule) := by
  rw [armRule_accepts hrest htrigger, heffect, applyEffect_changed hline y .keep hbinding, hpayload]
  rfl

/-- With neither a due time nor a count the answer names the state alone. -/
theorem armPayload_state (now : Time) (hdue : y.dueTime = none) (hremaining : y.remaining = none) :
    armPayload now y = 0 :: byte1 y.state.code := by
  rw [armPayload, hdue, hremaining]
  rfl

theorem armPayload_remaining (now : Time) {n : Nat} (hstate : y.state = .suspended) (hdue : y.dueTime = none)
    (hremaining : y.remaining = some n) : armPayload now y = [2, 3] ++ byte3 n := by
  rw [armPayload, hstate, hdue, hremaining]
  rfl

end ArmAnswer

/-! ### DISARM (R65) -/

section Disarm

variable {s : State} {i : SlotId} {x : Rec}

theorem disarmRecord_eq (h : RecordLaw x) :
    disarmRecord x =
      { record :=
          { x with
            state := .idle, dueTime := none, remaining := none, phase := none, staged := none,
            outputLevel := heldLevel x .inactive },
        schedule := .remove, fires := false } := by
  have hlevel : setLevel { untimed x .idle with staged := none } .inactive =
      { untimed x .idle with staged := none, outputLevel := heldLevel x .inactive } := setLevel_of_recordLaw h rfl rfl
  rw [disarmRecord, hlevel]
  rfl

/-- What a DISARM of the requester's record `x` in slot `i` is answered (R65). -/
def disarmRule (s : State) (i : SlotId) (x : Rec) : Answer :=
  if x.state = .idle then .refuse .wrongState
  else
    .accept (if x.state = .fired then .firedBefore else .ok) (byte1 x.state.code) (applyEffect s i (disarmRecord x))

theorem disarmAnswer_eq {r : Serving} {h : Handle} (hh : argHandle r.body 2 = h) :
    disarmAnswer s r = withOwned s r.port h (disarmRule s h.slot) := by
  subst hh
  rfl

theorem disarmRule_of_idle (hidle : x.state = .idle) : disarmRule s i x = .refuse .wrongState := if_pos hidle

theorem disarmRule_accepts (h : RecordLaw x) (hline : OnItsLine s i x) (hidle : x.state ≠ .idle) :
    disarmRule s i x =
      .accept (if x.state = .fired then .firedBefore else .ok) (byte1 x.state.code)
        (changed s i
          { x with
            state := .idle, dueTime := none, remaining := none, phase := none, staged := none,
            outputLevel := heldLevel x .inactive }
          (unscheduled s i)) := by
  rw [disarmRule, if_neg hidle, disarmRecord_eq h]
  exact congrArg (Answer.accept _ _) (applyEffect_changed hline _ .remove rfl)

end Disarm

end Sys2Proof.Machine
end

section
/-! CERTIFICATE. The statements about the record modes (04_record_modes.md). -/

namespace Sys2Proof.Claims

open Sys2Proof.Machine Sys2Proof.Safety

/-- Settles O36: each clause is the equation of its rule, carried out by a delivery that places the record, removes it from the
schedule, or changes nothing. The record law is needed for the fields that a rule writes and the statement leaves as they are:
they are absent already. -/
theorem deliveryFollowsTheMode : Obligations.DeliveryFollowsTheMode := by
  intro s i x hx hlaw hline
  refine ⟨fun n hmode hstate hremaining => ?_, fun hmode hstate => ?_, fun hmode hstate => ?_, fun hmode hstate => ?_,
    fun hmode hstate => ?_, fun hcontrary => ?_, fun due hmode hstate hdue => ?_, fun hmode hstate => ?_,
    fun hcontrary => ?_⟩
  · exact deliver_timed hx hline (assertRecord_single hmode hstate hremaining) rfl rfl
  · exact deliver_timed hx hline (assertRecord_cyclic hlaw hmode hstate) rfl rfl
  · exact deliver_timed hx hline (assertRecord_square hlaw hmode hstate) rfl rfl
  · exact deliver_timed hx hline (assertRecord_delayed hlaw hmode hstate) rfl rfl
  · exact deliver_timed hx hline (assertRecord_watch hlaw hmode hstate) rfl rfl
  · refine deliver_contrary hx ?_
    obtain hstate | hstate | ⟨hstate, hdelayed, hwatch⟩ := hcontrary
    · exact assertRecord_of_idle_or_fired (.inl hstate)
    · exact assertRecord_of_idle_or_fired (.inr hstate)
    · exact assertRecord_of_armed hstate hdelayed hwatch
  · exact deliver_untimed hx hline (deassertRecord_single hlaw hmode hstate hdue) rfl
  · exact deliver_untimed hx hline (deassertRecord_cyclic_or_square hlaw hmode hstate) rfl
  · refine deliver_contrary hx ?_
    obtain hstate | hmode := hcontrary
    · exact deassertRecord_of_not_armed hstate
    · exact deassertRecord_of_delayed_or_watch hmode

/-! ### ARM and DISARM -/

/-- The handle of a request that carries nothing else, read from its body. -/
theorem argHandle_inService {s : State} {r : Serving} {k : Kind} {h : Handle} (hs : InService s r k (handleBytes h)) :
    argHandle r.body 2 = h := by
  obtain ⟨_, ⟨_, hb⟩, _⟩ := hs
  rw [hb, argHandle_only]

/-- Settles O28: the first two clauses are the refusals of `armRule`; the others are its acceptance with the effect that each
mode and gate gives, as a count that starts (`armRule_timed`) or a wait for a trigger (`armRule_untimed`). -/
theorem armStartsTheRecord : Obligations.ArmStartsTheRecord := by
  intro s r h hs
  obtain ⟨howner, hexec⟩ :=
    ownerOnly_of_withOwned (c := .arm) (act := armAnswer) hs rfl rfl (armAnswer_eq (argHandle_inService hs))
  refine ⟨howner, fun x hx hport => ?_⟩
  have hanswer : ∀ {code payload t}, armRule s h.slot x = .accept code payload t → Answers .arm s r code payload t :=
    fun haccept => (hexec x hx hport).trans (by rw [haccept, answered])
  have hrefuse : ∀ {code}, armRule s h.slot x = .refuse code → Refuses .arm s r code :=
    fun hrule => (hexec x hx hport).trans (by rw [hrule, answered])
  refine ⟨fun hidle hfired => hrefuse (armRule_of_not_atRest hidle hfired),
    fun hrest hmode htrigger => hrefuse (armRule_of_no_trigger hrest hmode htrigger), fun hrest hlaw hline => ?_⟩
  have hremaining : x.remaining = none := remaining_eq_none_of_atRest hlaw hrest
  have hdue : x.dueTime = none := dueTime_eq_none_of_atRest hlaw hrest
  have hperiod : PeriodInRange x.mode (periodOf x) := periodOf_inRange hlaw
  refine ⟨fun hmode => ?_, fun ⟨hmode, hgate⟩ => ?_, fun ⟨hmode, hgate⟩ => ?_, fun ⟨hmode, hgate⟩ => ?_,
    fun hmode htrigger => ?_⟩
  · have hdelayed : x.mode ≠ .delayed := by obtain ⟨hmode | hmode, _⟩ | hmode := hmode <;> simp [hmode]
    exact hanswer (armRule_timed hrest hline (absurd · hdelayed) (armEffect_counting hlaw hrest hmode) rfl rfl hremaining
      rfl (ticksInRange_of_period hperiod))
  · have hhalf : TicksInRange ((periodOf x + 1) / 2) := highHalf_inRange (hmode ▸ hperiod)
    exact hanswer (armRule_timed hrest hline (by simp [hmode]) (armEffect_square_open hlaw hmode hgate) rfl rfl hremaining
      rfl hhalf)
  · exact hanswer (armRule_untimed hrest hline (by simp [hmode]) (armEffect_single_closed hlaw hrest hmode hgate) rfl
      (armPayload_remaining _ rfl hdue rfl))
  · have hdelayed : x.mode ≠ .delayed := by obtain hmode | hmode := hmode <;> simp [hmode]
    exact hanswer (armRule_untimed hrest hline (absurd · hdelayed) (armEffect_closed hlaw hrest hmode hgate) rfl
      (armPayload_state _ hdue hremaining))
  · exact hanswer (armRule_untimed hrest hline (fun _ => htrigger) (armEffect_delayed hlaw hrest hmode) rfl
      (armPayload_state _ hdue hremaining))

/-- Settles O29: the two clauses are the two branches of `disarmRule`. -/
theorem disarmReturnsToIdle : Obligations.DisarmReturnsToIdle := by
  intro s r h hs
  obtain ⟨howner, hexec⟩ :=
    ownerOnly_of_withOwned (c := .disarm) (act := disarmAnswer) hs rfl rfl (disarmAnswer_eq (argHandle_inService hs))
  refine ⟨howner, fun x hx hport => ⟨fun hidle => ?_, fun hidle hlaw hline => ?_⟩⟩
  · exact (hexec x hx hport).trans (by rw [disarmRule_of_idle hidle, answered])
  · exact (hexec x hx hport).trans (by rw [disarmRule_accepts hlaw hline hidle, answered])

end Sys2Proof.Claims
end

section
/-! SUPPORT. REVISE of a record of the requester: the step 2 range check, the effect by mode and state as Table 5-1 gives it,
and the bytes of the answer. -/

namespace Sys2Proof.Machine

open Sys2Proof.Safety Sys2Proof.Claims

/-! ### Dispositions (Table 5-1) -/

section Revise

variable {now : Time} {x y : Rec} {p : Nat}

/-- A SINGLE record replaces in every state. -/
theorem dispositionOf_single (hmode : x.mode = .single) : dispositionOf x = .replaced := by
  unfold dispositionOf
  rw [hmode]

/-- IDLE and FIRED replace in every mode. -/
theorem dispositionOf_of_atRest (hrest : AtRest x) : dispositionOf x = .replaced := by
  unfold dispositionOf
  obtain hstate | hstate := hrest <;> rw [hstate] <;> cases x.mode <;> rfl

/-- The modes other than SINGLE stage in ARMED, SUSPENDED and WAITING. -/
theorem dispositionOf_staging (hmode : x.mode ≠ .single) (hidle : x.state ≠ .idle) (hfired : x.state ≠ .fired) :
    dispositionOf x = .staged := by
  unfold dispositionOf
  cases hm : x.mode with
  | single => exact absurd hm hmode
  | cyclic | square | delayed | watch =>
    cases hs : x.state with
    | idle => exact absurd hs hidle
    | fired => exact absurd hs hfired
    | armed | suspended | waiting => rfl

/-! ### What REVISE makes of a record (R88, R89) -/

theorem reviseRecord_single_armed (hmode : x.mode = .single) (hstate : x.state = .armed) :
    reviseRecord now x p =
      { record := { x with period := p, staged := none, dueTime := some (after now p) },
        schedule := .place (after now p), fires := false } := by
  simp [reviseRecord, dispositionOf_single hmode, replacePeriod, hmode, hstate, timed, placed]

theorem reviseRecord_single_suspended (hmode : x.mode = .single) (hstate : x.state = .suspended) :
    reviseRecord now x p =
      { record := { x with period := p, staged := none, remaining := some p }, schedule := .keep, fires := false } := by
  simp [reviseRecord, dispositionOf_single hmode, replacePeriod, hmode, hstate]

/-- A record at rest holds no timing to restart. -/
theorem reviseRecord_of_atRest (hrest : AtRest x) :
    reviseRecord now x p = { record := { x with period := p, staged := none }, schedule := .keep, fires := false } := by
  simp only [reviseRecord, dispositionOf_of_atRest hrest, replacePeriod]
  obtain hstate | hstate := hrest <;> rw [hstate] <;> cases x.mode <;> rfl

theorem reviseRecord_staging (hmode : x.mode ≠ .single) (hidle : x.state ≠ .idle) (hfired : x.state ≠ .fired) :
    reviseRecord now x p = { record := { x with staged := some p }, schedule := .keep, fires := false } := by
  rw [reviseRecord, dispositionOf_staging hmode hidle hfired]
  rfl

/-! ### The payload of a REVISE (R97) -/

/-- A SINGLE record holds no staged period (R90). -/
theorem staged_eq_none_of_single (h : RecordLaw x) (hmode : x.mode = .single) : x.staged = none :=
  staged_eq_none h (by rw [hmode]; cases x.state <;> rfl)

/-- The due time of a count restarted on `p` ticks is reported with those ticks. -/
theorem revisePayload_due (h : RecordLaw x) (hmode : x.mode = .single) (hstate : x.state = .armed) (hp : TicksInRange p) :
    revisePayload now x { x with period := p, staged := none, dueTime := some (after now p) } =
      [4, 0] ++ byte3 p ++ [2] ++ timeBytes (after now p) ++ byte3 p := by
  have hremaining : x.remaining = none := remaining_eq_none h (by simp [hstate])
  simp only [revisePayload, revisedDue, dispositionOf_single hmode, staged_eq_none_of_single h hmode, hmode, hstate,
    hremaining, if_true, dueAndRemaining, optBytes, timeAndTicks, ahead_after_of_inRange now hp]
  rfl

theorem revisePayload_remaining (h : RecordLaw x) (hmode : x.mode = .single) (hstate : x.state = .suspended) :
    revisePayload now x { x with period := p, staged := none, remaining := some p } =
      [8, 0] ++ byte3 p ++ [3] ++ byte3 p := by
  have hdue : x.dueTime = none := dueTime_eq_none h (by simp [hstate])
  simp only [revisePayload, revisedDue, dispositionOf_single hmode, staged_eq_none_of_single h hmode, hmode, hstate, hdue]
  rfl

/-- With neither a due time to report nor a count, the optional items are the staged period and the displaced one. -/
theorem revisePayload_untimed (hdue : revisedDue y = none) (hremaining : y.remaining = none) :
    revisePayload now x y =
      presence [y.staged.isSome, x.staged.isSome, false, false] ++ byte1 (dispositionOf x).code ++ byte3 y.period
        ++ byte1 y.state.code ++ optBytes byte3 y.staged ++ optBytes byte3 x.staged := by
  rw [revisePayload, hdue, hremaining]
  exact List.append_nil _

theorem revisePayload_of_atRest (h : RecordLaw x) (hrest : AtRest x) :
    revisePayload now x { x with period := p, staged := none } =
      [if x.staged = none then 0 else 2, 0] ++ byte3 p ++ byte1 x.state.code ++ optBytes byte3 x.staged := by
  have hdue : revisedDue { x with period := p, staged := none } = none := by
    simp [revisedDue, dueTime_eq_none_of_atRest h hrest]
  have hremaining : x.remaining = none := remaining_eq_none_of_atRest h hrest
  rw [revisePayload_untimed hdue hremaining, dispositionOf_of_atRest hrest]
  cases x.staged <;> rfl

theorem revisePayload_staging (h : RecordLaw x) (hmode : x.mode ≠ .single) (hidle : x.state ≠ .idle)
    (hfired : x.state ≠ .fired) :
    revisePayload now x { x with staged := some p } =
      [if x.staged = none then 1 else 3, 1] ++ byte3 x.period ++ byte1 x.state.code ++ byte3 p
        ++ optBytes byte3 x.staged := by
  have hdue : revisedDue { x with staged := some p } = none := if_neg hmode
  have hremaining : x.remaining = none := remaining_eq_none_of_mode h hmode
  rw [revisePayload_untimed hdue hremaining, dispositionOf_staging hmode hidle hfired]
  cases x.staged <;> rfl

end Revise

/-! ### The answer to a REVISE (R87) -/

section ReviseAnswer

variable {s : State} {i : SlotId} {x y : Rec} {p : Nat}

/-- What a REVISE to period `p` of the requester's record `x` in slot `i` is answered (R87). -/
def reviseRule (s : State) (i : SlotId) (p : Nat) (x : Rec) : Answer :=
  .accept .ok (revisePayload s.tableTime x (reviseRecord s.tableTime x p).record)
    (applyEffect s i (reviseRecord s.tableTime x p))

/-- Only a period of 1 is too short, and only for a CYCLIC or SQUARE record (R87). -/
theorem periodTooShort_eq_false {mode : Mode} (h : p = 1 → mode ≠ .cyclic ∧ mode ≠ .square) :
    periodTooShort mode p = false := by
  cases mode with
  | single | delayed | watch => rfl
  | cyclic => exact decide_eq_false fun hone => (h hone).1 rfl
  | square => exact decide_eq_false fun hone => (h hone).2 rfl

theorem reviseTooShort_eq_false {h : Handle}
    (hshort : ∀ x, Names s h x → p = 1 → x.mode ≠ .cyclic ∧ x.mode ≠ .square) : reviseTooShort s h p = false := by
  unfold reviseTooShort
  split
  · rfl
  · next x hx => exact periodTooShort_eq_false (hshort x (names_iff_live.2 hx))

/-- With a period in range, a REVISE is judged by owner and then by its rule. -/
theorem reviseAnswer_eq {r : Serving} {h : Handle} (hh : argHandle r.body 2 = h) (hp : arg3 r.body 4 = p) (hpos : 1 ≤ p)
    (hshort : ∀ x, Names s h x → p = 1 → x.mode ≠ .cyclic ∧ x.mode ≠ .square) :
    reviseAnswer s r = withOwned s r.port h (reviseRule s h.slot p) := by
  have hlong : reviseTooShort s h p = false := reviseTooShort_eq_false hshort
  subst hh hp
  exact if_neg (by simp [hlong, Nat.ne_of_gt hpos])

/-- The record the rule makes is put in its slot, its line follows, and it takes the place the rule gives. -/
theorem reviseRule_eq {op : SchedOp} {payload : List Byte} (hline : OnItsLine s i x)
    (hrecord : reviseRecord s.tableTime x p = { record := y, schedule := op, fires := false })
    (hbinding : y.outputBinding = x.outputBinding) (hpayload : revisePayload s.tableTime x y = payload) :
    reviseRule s i p x = .accept .ok payload (changed s i y (schedAfter s i op)) := by
  rw [reviseRule, hrecord, applyEffect_changed hline y op hbinding, hpayload]

end ReviseAnswer

end Sys2Proof.Machine
end

section
/-! CERTIFICATE. The statements about staged periods (05_staged_periods.md). -/

namespace Sys2Proof.Claims

open Sys2Proof.Machine Sys2Proof.Safety

/-- The period that follows the handle of a REVISE reads back (Table 10-1). -/
theorem arg3_after_handle {kind seq : Byte} (h : Handle) {n : Nat} (hn : n < 16777216) :
    arg3 (kind :: seq :: (handleBytes h ++ byte3 n)) 4 = n := byte3_reads hn

/-- The two arguments of a REVISE, read from its body. -/
theorem reviseArgs_inService {s : State} {r : Serving} {h : Handle} {p : Nat} (hmax : p ≤ 16777215)
    (hs : InService s r .revise (handleBytes h ++ byte3 p)) : argHandle r.body 2 = h ∧ arg3 r.body 4 = p := by
  obtain ⟨_, ⟨_, hbody⟩, _⟩ := hs
  rw [hbody]
  exact ⟨argHandle_first h _, arg3_after_handle h (Nat.lt_succ_of_le hmax)⟩

/-- Settles O30: each clause is the rule of one part of Table 5-1 with its payload. The record law gives the fields that are
absent, and so are not reported. -/
theorem reviseReplacesOrStages : Obligations.ReviseReplacesOrStages := by
  intro s r h p hpos hmax hs hshort
  obtain ⟨hhandle, hperiod⟩ := reviseArgs_inService hmax hs
  obtain ⟨howner, hexec⟩ :=
    ownerOnly_of_withOwned (c := .revise) (act := reviseAnswer) hs rfl rfl (reviseAnswer_eq hhandle hperiod hpos hshort)
  refine ⟨howner, fun x hx hport hlaw hline => ?_⟩
  have hanswer : ∀ {payload t}, reviseRule s h.slot p x = .accept .ok payload t → Answers .revise s r .ok payload t :=
    fun haccept => (hexec x hx hport).trans (by rw [haccept, answered])
  refine ⟨fun ⟨hmode, hstate⟩ => ?_, fun ⟨hmode, hstate⟩ => ?_, fun hrest => ?_, fun hmode hidle hfired => ?_⟩
  · exact hanswer (reviseRule_eq hline (reviseRecord_single_armed hmode hstate) rfl
      (revisePayload_due hlaw hmode hstate ⟨hpos, hmax⟩))
  · exact hanswer (reviseRule_eq hline (reviseRecord_single_suspended hmode hstate) rfl
      (revisePayload_remaining hlaw hmode hstate))
  · exact hanswer (reviseRule_eq hline (reviseRecord_of_atRest hrest) rfl (revisePayload_of_atRest hlaw hrest))
  · exact hanswer (reviseRule_eq hline (reviseRecord_staging hmode hidle hfired) rfl
      (revisePayload_staging hlaw hmode hidle hfired))

end Sys2Proof.Claims
end

section
/-! SUPPORT. The law of the lines as one invariant of a state: the records' bindings and output levels, one line at a time,
and what a change of one record with its lines leaves of it. -/

namespace Sys2Proof.Machine

open Sys2Proof.Safety

/-! ### The fields that tie a record to the lines -/

/-- The output binding of the record in a slot, if it has one (R109). -/
def outputAt (s : State) (i : SlotId) : Option Line := (recordAt s i).bind Rec.outputBinding

/-- The output level of the record in a slot, if it has one (R59). -/
def levelAt (s : State) (i : SlotId) : Option OutLevel := (recordAt s i).bind Rec.outputLevel

/-- The trigger binding of the record in a slot, if it has one (R103). -/
def triggerAt (s : State) (i : SlotId) : Option Line := (recordAt s i).bind Rec.triggerBinding

/-- All that the lines read of a record: its two bindings and its output level. -/
def wiring (r : Rec) : Option Line × Option OutLevel × Option Line := (r.outputBinding, r.outputLevel, r.triggerBinding)

/-- The wiring of the record in a slot, absent where the slot is FREE. -/
def wiringAt (s : State) (i : SlotId) : Option (Option Line × Option OutLevel × Option Line) := (recordAt s i).map wiring

theorem outputAt_eq {s : State} {i : SlotId} {r : Rec} (h : recordAt s i = some r) : outputAt s i = r.outputBinding := by
  rw [outputAt, h]
  rfl

theorem levelAt_eq {s : State} {i : SlotId} {r : Rec} (h : recordAt s i = some r) : levelAt s i = r.outputLevel := by
  rw [levelAt, h]
  rfl

theorem triggerAt_eq {s : State} {i : SlotId} {r : Rec} (h : recordAt s i = some r) :
    triggerAt s i = r.triggerBinding := by
  rw [triggerAt, h]
  rfl

theorem wiringAt_congr {s t : State} {i : SlotId} (h : recordAt t i = recordAt s i) : wiringAt t i = wiringAt s i := by
  rw [wiringAt, wiringAt, h]

/-- A field that the wiring holds is read from the wiring. -/
theorem bind_eq_of_wiringAt_eq {α : Type} {f : Rec → Option α} (hf : ∀ x y, wiring x = wiring y → f x = f y)
    {s t : State} {i : SlotId} (h : wiringAt t i = wiringAt s i) : (recordAt t i).bind f = (recordAt s i).bind f := by
  unfold wiringAt at h
  cases hs : recordAt s i with
  | none =>
    rw [hs, Option.map_none, Option.map_eq_none_iff] at h
    rw [h]
  | some y =>
    rw [hs, Option.map_some, Option.map_eq_some_iff] at h
    obtain ⟨x, hx, hwiring⟩ := h
    rw [hx]
    exact hf x y hwiring

theorem outputAt_of_wiringAt {s t : State} {i : SlotId} (h : wiringAt t i = wiringAt s i) :
    outputAt t i = outputAt s i :=
  bind_eq_of_wiringAt_eq (fun _ _ hw => congrArg Prod.fst hw) h

theorem levelAt_of_wiringAt {s t : State} {i : SlotId} (h : wiringAt t i = wiringAt s i) : levelAt t i = levelAt s i :=
  bind_eq_of_wiringAt_eq (fun _ _ hw => congrArg (fun w => w.2.1) hw) h

theorem triggerAt_of_wiringAt {s t : State} {i : SlotId} (h : wiringAt t i = wiringAt s i) :
    triggerAt t i = triggerAt s i :=
  bind_eq_of_wiringAt_eq (fun _ _ hw => congrArg (fun w => w.2.2) hw) h

theorem boundLevel_of_none (s : State) {l : EvtLine} (h : l.bound = none) : boundLevel s l = none := by
  rw [boundLevel, h]

theorem boundLevel_of_some (s : State) {l : EvtLine} {i : SlotId} (h : l.bound = some i) :
    boundLevel s l = levelAt s i := by
  rw [boundLevel, h]
  rfl

/-! ### The invariant -/

/-- An EVT line is bound to a record exactly when the record's output binding names it, and drives the level of Table 6-1
(R109). -/
def EvtAgrees (s : State) (k : Line) : Prop :=
  (∀ i, (s.evt.get k).bound = some i ↔ outputAt s i = some k) ∧
    (s.evt.get k).driven = drivenLevel (s.evt.get k).idle (boundLevel s (s.evt.get k))

/-- The listener list of a TRG line holds exactly the records whose trigger binding names it, once each (R103). -/
def TrgAgrees (s : State) (k : Line) : Prop :=
  (s.trg.get k).listeners.Nodup ∧ ∀ i, i ∈ (s.trg.get k).listeners ↔ triggerAt s i = some k

/-- `LineLaw`, line by line. -/
structure LinesAgree (s : State) : Prop where
  free : FreeSlotsLaw s
  evt : ∀ k, EvtAgrees s k
  trg : ∀ k, TrgAgrees s k

theorem linesAgree_iff {s : State} : LinesAgree s ↔ LineLaw s := by
  constructor
  · rintro ⟨hfree, hevt, htrg⟩
    exact ⟨hfree, fun k => (hevt k).1, fun k => (hevt k).2, fun k => (htrg k).1, fun k => (htrg k).2⟩
  · rintro ⟨hfree, hbound, hdriven, honce, hlisteners⟩
    exact ⟨hfree, fun k => ⟨hbound k, hdriven k⟩, fun k => ⟨honce k, hlisteners k⟩⟩

/-- A line as it was agrees with records whose output bindings and levels are as they were. -/
theorem EvtAgrees.congr {s t : State} {k : Line} (h : EvtAgrees s k) (hline : t.evt.get k = s.evt.get k)
    (houtput : ∀ i, outputAt t i = outputAt s i) (hlevel : ∀ i, levelAt t i = levelAt s i) : EvtAgrees t k := by
  obtain ⟨hbound, hdriven⟩ := h
  have hboundLevel : boundLevel t (s.evt.get k) = boundLevel s (s.evt.get k) := by
    cases hb : (s.evt.get k).bound with
    | none => rw [boundLevel_of_none t hb, boundLevel_of_none s hb]
    | some i => rw [boundLevel_of_some t hb, boundLevel_of_some s hb, hlevel]
  rw [EvtAgrees, hline]
  exact ⟨fun i => by rw [houtput, hbound], by rw [hboundLevel, hdriven]⟩

/-- A list as it was agrees with records whose trigger bindings name the line as they did. -/
theorem TrgAgrees.congr {s t : State} {k : Line} (h : TrgAgrees s k)
    (hlisteners : (t.trg.get k).listeners = (s.trg.get k).listeners)
    (htrigger : ∀ i, triggerAt t i = some k ↔ triggerAt s i = some k) : TrgAgrees t k := by
  obtain ⟨hnodup, hmem⟩ := h
  rw [TrgAgrees, hlisteners]
  exact ⟨hnodup, fun i => by rw [hmem, htrigger]⟩

/-! ### Changes that leave the lines, and the records' ties to them, as they are -/

/-- The state has the free list, the EVT lines, the listener lists and the records' wiring of `s`. -/
structure SameWiring (s t : State) : Prop where
  freeList : t.freeList = s.freeList
  evt : t.evt = s.evt
  listeners : ∀ k, (t.trg.get k).listeners = (s.trg.get k).listeners
  wiring : ∀ i, wiringAt t i = wiringAt s i

/-- Where the records, the free list and the lines stand. -/
theorem SameWiring.of_eq {s t : State} (hslots : t.slots = s.slots) (hfree : t.freeList = s.freeList)
    (hevt : t.evt = s.evt) (htrg : t.trg = s.trg) : SameWiring s t :=
  ⟨hfree, hevt, fun k => by rw [htrg], fun i => wiringAt_congr (recordAt_eq_of_slots hslots i)⟩

theorem SameWiring.refl (s : State) : SameWiring s s := .of_eq rfl rfl rfl rfl

theorem SameWiring.trans {s t u : State} (hst : SameWiring s t) (htu : SameWiring t u) : SameWiring s u :=
  ⟨htu.freeList.trans hst.freeList, htu.evt.trans hst.evt, fun k => (htu.listeners k).trans (hst.listeners k),
    fun i => (htu.wiring i).trans (hst.wiring i)⟩

theorem LinesAgree.of_sameWiring {s t : State} (h : LinesAgree s) (ht : SameWiring s t) : LinesAgree t := by
  refine ⟨?_, fun k => (h.evt k).congr (by rw [ht.evt]) (fun i => outputAt_of_wiringAt (ht.wiring i))
    fun i => levelAt_of_wiringAt (ht.wiring i),
    fun k => (h.trg k).congr (ht.listeners k) fun i => by rw [triggerAt_of_wiringAt (ht.wiring i)]⟩
  obtain ⟨hnodup, hnone⟩ := h.free
  refine ⟨ht.freeList ▸ hnodup, fun i hi => ?_⟩
  have hwiring := ht.wiring i
  rwa [wiringAt, wiringAt, hnone i (ht.freeList ▸ hi), Option.map_none, Option.map_eq_none_iff] at hwiring

/-- A record rewritten with its bindings and level as they were. -/
theorem SameWiring.putRecord {s : State} {i : SlotId} {r y : Rec} (hr : recordAt s i = some r)
    (hy : Machine.wiring y = Machine.wiring r) : SameWiring s (putRecord s i y) := by
  refine ⟨rfl, rfl, fun _ => rfl, fun j => ?_⟩
  rw [wiringAt, wiringAt, recordAt_putRecord]
  split
  · next hj => rw [hj, hr, Option.map_some, Option.map_some, hy]
  · rfl

theorem SameWiring.mapRecord (s : State) (i : SlotId) {f : Rec → Rec}
    (hf : ∀ r, Machine.wiring (f r) = Machine.wiring r) : SameWiring s (mapRecord s i f) := by
  unfold Machine.mapRecord
  split
  · exact .refl s
  · next r hr => exact .putRecord hr (hf r)

/-- A firing writes reporting fields, an attention set and an ATTN line (R120). -/
theorem SameWiring.fire (s : State) (i : SlotId) : SameWiring s (fire s i) := by
  have hfired : ∀ r, Machine.wiring (firedRecord s.tableTime r) = Machine.wiring r := fun r => by
    unfold firedRecord; split <;> rfl
  refine ⟨fire_freeList s i, fire_evt s i, fun k => by rw [fire_trg], fun j => ?_⟩
  rw [wiringAt, wiringAt, recordAt_fire]
  split
  · next hj =>
    rw [hj, Option.map_map]
    exact congrArg (fun f => (recordAt s i).map f) (funext hfired)
  · rfl

theorem SameWiring.removeOffer (s : State) (i : SlotId) : SameWiring s (removeOffer s i) := by
  have hremoved : SameWiring s { s with offers := s.offers.filter fun o => decide (o.record ≠ i) } :=
    .of_eq rfl rfl rfl rfl
  exact hremoved.trans (.mapRecord _ i fun _ => rfl)

theorem SameWiring.endOffer (s : State) (o : Offer) : SameWiring s (endOffer s o) :=
  (SameWiring.removeOffer s o.record).trans (.of_eq rfl rfl rfl rfl)

theorem SameWiring.endOffers (s : State) (l : List Offer) : SameWiring s (endOffers s l) := by
  induction l generalizing s with
  | nil => exact .refl s
  | cons o rest ih => exact (SameWiring.endOffer s o).trans (ih _)

theorem SameWiring.markClient (s : State) (c : Client) : SameWiring s (markClient s c) := by
  have hmarked : SameWiring s { s with purging := s.purging.set c true } := .of_eq rfl rfl rfl rfl
  exact (hmarked.trans (.endOffers _ (offersOf s c))).trans (.of_eq rfl rfl rfl rfl)

theorem SameWiring.takeEntry (s : State) (c : Client) (i : SlotId) : SameWiring s (takeEntry s c i) := by
  have hleft : SameWiring s (leaveSet s c i) := .of_eq rfl rfl rfl rfl
  exact hleft.trans (.mapRecord _ i fun _ => rfl)

theorem SameWiring.takeEntries (s : State) (c : Client) (l : List SlotId) : SameWiring s (takeEntries s c l) := by
  induction l generalizing s with
  | nil => exact .refl s
  | cons i rest ih => exact (SameWiring.takeEntry s c i).trans (ih _)

theorem SameWiring.post (s : State) (r : Serving) (code : ResultCode) (payload : List Byte) :
    SameWiring s (post s r code payload) :=
  .of_eq (post_slots s r code payload) (post_freeList s r code payload) (post_evt s r code payload)
    (post_trg s r code payload)

/-! ### A change of one record and of its lines -/

section OneRecord

variable {s t : State} {i : SlotId} {k : Line}

/-- A line that the record in slot `i` alone can take drives that record's level (R111). -/
theorem EvtAgrees.joined (h : EvtAgrees s k) (hother : ∀ j, j ≠ i → recordAt t j = recordAt s j)
    (hopen : ∀ j, (s.evt.get k).bound = some j → j = i) (hnow : outputAt t i = some k)
    (hbound : (t.evt.get k).bound = some i)
    (hdriven : (t.evt.get k).driven = drivenLevel (t.evt.get k).idle (levelAt t i)) : EvtAgrees t k := by
  obtain ⟨hiff, _⟩ := h
  refine ⟨fun j => ?_, by rw [boundLevel_of_some t hbound, hdriven]⟩
  rw [hbound]
  constructor
  · rintro ⟨⟩
    exact hnow
  · intro hj
    by_cases hji : j = i
    · rw [hji]
    · rw [outputAt, hother j hji] at hj
      exact absurd (hopen j ((hiff j).2 hj)) hji

/-- The line that the record in slot `i` leaves is unbound and drives its idle polarity (R109, R112). -/
theorem EvtAgrees.released (h : EvtAgrees s k) (hother : ∀ j, j ≠ i → recordAt t j = recordAt s j)
    (hwas : outputAt s i = some k) (hnow : outputAt t i ≠ some k)
    (hline : t.evt.get k = { s.evt.get k with bound := none, driven := (s.evt.get k).idle }) : EvtAgrees t k := by
  obtain ⟨hiff, _⟩ := h
  rw [EvtAgrees, hline]
  refine ⟨fun j => ⟨nofun, fun hj => ?_⟩, rfl⟩
  by_cases hji : j = i
  · exact absurd (hji ▸ hj) hnow
  · rw [outputAt, hother j hji] at hj
    have hbound := (hiff i).2 hwas
    rw [(hiff j).2 hj] at hbound
    exact absurd (Option.some.inj hbound) hji

/-- A line that the record in slot `i` was not bound to and is not bound to. -/
theorem EvtAgrees.elsewhere (h : EvtAgrees s k) (hother : ∀ j, j ≠ i → recordAt t j = recordAt s j)
    (hwas : outputAt s i ≠ some k) (hnow : outputAt t i ≠ some k) (hline : t.evt.get k = s.evt.get k) :
    EvtAgrees t k := by
  obtain ⟨hiff, hdriven⟩ := h
  rw [EvtAgrees, hline]
  refine ⟨fun j => ?_, ?_⟩
  · rw [hiff]
    by_cases hji : j = i
    · rw [hji]
      exact iff_of_false hwas hnow
    · rw [outputAt, outputAt, hother j hji]
  · cases hb : (s.evt.get k).bound with
    | none => rw [hdriven, boundLevel_of_none s hb, boundLevel_of_none t hb]
    | some j =>
      have hji : j ≠ i := fun hji => hwas ((hiff i).1 (hji ▸ hb))
      rw [hdriven, boundLevel_of_some s hb, boundLevel_of_some t hb, levelAt, levelAt, hother j hji]

/-- The record in slot `i` joins the tail of the list (R107). -/
theorem TrgAgrees.joined (h : TrgAgrees s k) (hother : ∀ j, j ≠ i → recordAt t j = recordAt s j)
    (hwas : triggerAt s i ≠ some k) (hnow : triggerAt t i = some k)
    (hlisteners : (t.trg.get k).listeners = (s.trg.get k).listeners ++ [i]) : TrgAgrees t k := by
  obtain ⟨hnodup, hmem⟩ := h
  have hi : i ∉ (s.trg.get k).listeners := fun hi => hwas ((hmem i).1 hi)
  rw [TrgAgrees, hlisteners]
  refine ⟨?_, fun j => ?_⟩
  · rw [← List.concat_eq_append]
    exact hnodup.concat hi
  · rw [List.mem_append, List.mem_singleton, hmem]
    by_cases hji : j = i
    · rw [hji]
      exact iff_of_true (.inr rfl) hnow
    · rw [triggerAt, triggerAt, hother j hji, or_iff_left hji]

/-- The record in slot `i` leaves the list, and the others keep their order (R103). -/
theorem TrgAgrees.left (h : TrgAgrees s k) (hother : ∀ j, j ≠ i → recordAt t j = recordAt s j)
    (hnow : triggerAt t i ≠ some k)
    (hlisteners : (t.trg.get k).listeners = dropSlot i (s.trg.get k).listeners) : TrgAgrees t k := by
  obtain ⟨hnodup, hmem⟩ := h
  rw [TrgAgrees, hlisteners]
  refine ⟨(dropSlot_sublist i _).nodup hnodup, fun j => ?_⟩
  rw [mem_dropSlot, hmem]
  by_cases hji : j = i
  · rw [hji]
    exact iff_of_false (fun hi => hi.2 rfl) hnow
  · rw [triggerAt, triggerAt, hother j hji, and_iff_left hji]

/-- A change of one record that leaves a field of it leaves the field at every slot. -/
theorem bind_eq_of_others {α : Type} {f : Rec → Option α} (hother : ∀ j, j ≠ i → recordAt t j = recordAt s j)
    (hself : (recordAt t i).bind f = (recordAt s i).bind f) (j : SlotId) :
    (recordAt t j).bind f = (recordAt s j).bind f := by
  by_cases hji : j = i
  · rw [hji, hself]
  · rw [hother j hji]

/-- A change of the record's output side alone: its trigger binding and the listener lists stand. -/
theorem LinesAgree.of_evt {x y : Rec} (h : LinesAgree s) (hx : recordAt s i = some x) (hy : recordAt t i = some y)
    (hother : ∀ j, j ≠ i → recordAt t j = recordAt s j) (hfree : t.freeList = s.freeList) (htrg : t.trg = s.trg)
    (htrigger : y.triggerBinding = x.triggerBinding) (hevt : ∀ k, EvtAgrees t k) : LinesAgree t := by
  refine ⟨freeSlotsLaw_of_live h.free hx hfree hother, hevt, fun k => (h.trg k).congr (by rw [htrg]) fun j => ?_⟩
  have hsame : triggerAt t j = triggerAt s j := bind_eq_of_others hother (by rw [hx, hy]; exact htrigger) j
  rw [hsame]

/-- A change of the record's trigger side alone: its output binding and level and the EVT lines stand. -/
theorem LinesAgree.of_trg {x y : Rec} (h : LinesAgree s) (hx : recordAt s i = some x) (hy : recordAt t i = some y)
    (hother : ∀ j, j ≠ i → recordAt t j = recordAt s j) (hfree : t.freeList = s.freeList) (hevt : t.evt = s.evt)
    (houtput : y.outputBinding = x.outputBinding) (hlevel : y.outputLevel = x.outputLevel)
    (htrg : ∀ k, TrgAgrees t k) : LinesAgree t :=
  ⟨freeSlotsLaw_of_live h.free hx hfree hother, fun k => (h.evt k).congr (by rw [hevt])
    (bind_eq_of_others hother (by rw [hx, hy]; exact houtput)) (bind_eq_of_others hother (by rw [hx, hy]; exact hlevel)),
    htrg⟩

end OneRecord

end Sys2Proof.Machine
end

section
/-! SUPPORT. What the events of a record leave of the agreement: no mode rule changes a binding, so an event drives the
record's own line at most; a retirement frees the lines of the record. -/

namespace Sys2Proof.Machine

open Sys2Proof.Safety Sys2Proof.Claims

/-! ### The mode rules leave the bindings (R59, R60) -/

/-- The two bindings of a record. -/
def bindings (r : Rec) : Option Line × Option Line := (r.outputBinding, r.triggerBinding)

@[simp] theorem bindings_setLevel (r : Rec) (l : OutLevel) : bindings (setLevel r l) = bindings r := by
  unfold setLevel; split <;> rfl
@[simp] theorem bindings_toggleLevel (r : Rec) : bindings (toggleLevel r) = bindings r := by
  obtain h | ⟨l, h⟩ := toggleLevel_cases r <;> simp [h]
@[simp] theorem bindings_takeStaged (r : Rec) : bindings (takeStaged r) = bindings r := by rw [takeStaged_eq]; rfl
@[simp] theorem bindings_armedAt (r : Rec) (due : Time) : bindings (armedAt r due) = bindings r := rfl
@[simp] theorem bindings_untimed (r : Rec) (state : RecState) : bindings (untimed r state) = bindings r := rfl
@[simp] theorem bindings_startHigh (r : Rec) (origin : Time) : bindings (startHigh r origin) = bindings r :=
  bindings_setLevel _ _
@[simp] theorem bindings_startLow (r : Rec) (origin : Time) : bindings (startLow r origin) = bindings r :=
  bindings_setLevel _ _
@[simp] theorem timed_record (r : Rec) (fires : Bool) : (timed r fires).record = r := rfl

theorem bindings_armRecord (now : Time) (active : Bool) (r : Rec) :
    bindings (armRecord now active r).record = bindings r := by
  unfold armRecord
  cases r.mode with
  | single =>
    cases active with
    | true => simp
    | false => exact bindings_setLevel r .inactive
  | cyclic | square => cases active <;> simp
  | delayed | watch => simp

theorem bindings_disarmRecord (r : Rec) : bindings (disarmRecord r).record = bindings r := bindings_setLevel _ _

theorem bindings_reviseRecord (now : Time) (r : Rec) (p : Nat) :
    bindings (reviseRecord now r p).record = bindings r := by
  unfold reviseRecord
  split
  · unfold replacePeriod
    split <;> rfl
  · rfl

theorem bindings_expireRecord (now : Time) (r : Rec) : bindings (expireRecord now r).record = bindings r := by
  unfold expireRecord
  cases r.mode with
  | single | watch | delayed | cyclic => simp
  | square =>
    cases r.phase with
    | none => simp
    | some phase => cases phase <;> simp

theorem bindings_assertRecord {now : Time} {r : Rec} {e : Effect} (he : assertRecord now r = some e) :
    bindings e.record = bindings r := by
  unfold assertRecord at he
  split at he <;> cases he <;> simp

theorem bindings_deassertRecord {now : Time} {r : Rec} {e : Effect} (he : deassertRecord now r = some e) :
    bindings e.record = bindings r := by
  unfold deassertRecord at he
  split at he <;> cases he
  · rfl
  · simp
  · simp

theorem bindings_eventRule {assert : Bool} {now : Time} {r : Rec} {e : Effect} (he : eventRule assert now r = some e) :
    bindings e.record = bindings r := by
  cases assert with
  | true => exact bindings_assertRecord he
  | false => exact bindings_deassertRecord he

/-! ### Events (R110) -/

theorem driveBinding_get_evt (s : State) (binding : Option Line) (k : Line) :
    (driveBinding s binding).evt.get k =
      if binding = some k then
        { s.evt.get k with driven := drivenLevel (s.evt.get k).idle (boundLevel s (s.evt.get k)) }
      else s.evt.get k := by
  cases binding with
  | none => rfl
  | some j =>
    by_cases h : j = k
    · simp [driveBinding, drive, h]
    · simp [driveBinding, drive, Table.get_set, h, Ne.symm h]

/-- A record rewritten at the same bindings, and its line driven to match. -/
theorem LinesAgree.putRecord_driven {s : State} (h : LinesAgree s) {i : SlotId} {x y : Rec} (hx : recordAt s i = some x)
    (hy : bindings y = bindings x) : LinesAgree (driveBinding (putRecord s i y) y.outputBinding) := by
  obtain ⟨houtput, htrigger⟩ := Prod.mk.inj hy
  have hother : ∀ j, j ≠ i → recordAt (driveBinding (putRecord s i y) y.outputBinding) j = recordAt s j := fun j hj => by
    rw [recordAt_driveBinding, recordAt_putRecord_of_ne s y hj]
  have hself : recordAt (driveBinding (putRecord s i y) y.outputBinding) i = some y := by
    rw [recordAt_driveBinding, recordAt_putRecord_self]
  refine h.of_evt hx hself hother (by simp) (by simp) htrigger fun k => ?_
  have hline := driveBinding_get_evt (putRecord s i y) y.outputBinding k
  by_cases hk : y.outputBinding = some k
  · rw [if_pos hk] at hline
    obtain ⟨hiff, _⟩ := h.evt k
    have hbound : (s.evt.get k).bound = some i := (hiff i).2 (by rw [outputAt_eq hx, ← houtput, hk])
    have hnow := (outputAt_eq hself).trans hk
    refine (h.evt k).joined hother (fun j hj => Option.some.inj (hj.symm.trans hbound)) hnow ?_ ?_
    · rw [hline]
      exact hbound
    · rw [hline, levelAt_eq hself]
      dsimp only
      rw [putRecord_evt, boundLevel_of_some _ hbound, levelAt_eq (recordAt_putRecord_self s i y)]
  · rw [if_neg hk] at hline
    exact (h.evt k).elsewhere hother (by rwa [outputAt_eq hx, ← houtput]) (by rwa [outputAt_eq hself]) hline

/-- An event decided by a mode. -/
theorem LinesAgree.applyEffect {s : State} (h : LinesAgree s) {i : SlotId} {x : Rec} (hx : recordAt s i = some x)
    {e : Effect} (he : bindings e.record = bindings x) : LinesAgree (applyEffect s i e) := by
  have hdriven := h.putRecord_driven hx he
  have hplaced := hdriven.of_sameWiring (t := reschedule _ i e.schedule)
    (.of_eq (reschedule_slots _ _ _) (reschedule_freeList _ _ _) (reschedule_evt _ _ _) (reschedule_trg _ _ _))
  unfold Machine.applyEffect
  dsimp only
  split
  · exact hplaced.of_sameWiring (.fire _ i)
  · exact hplaced

theorem LinesAgree.deliver {s : State} (h : LinesAgree s) (assert : Bool) (i : SlotId) :
    LinesAgree (deliver assert s i) := by
  unfold Machine.deliver
  split
  · exact h
  · next r hr =>
    split
    · exact h
    · next e he => exact h.applyEffect hr (bindings_eventRule he)

theorem LinesAgree.deliverAll {s : State} (h : LinesAgree s) (assert : Bool) (l : List SlotId) :
    LinesAgree (deliverAll assert s l) := by
  induction l generalizing s with
  | nil => exact h
  | cons i rest ih => exact ih (h.deliver assert i)

theorem LinesAgree.expireAt {s : State} (h : LinesAgree s) (i : SlotId) : LinesAgree (expireAt s i) := by
  unfold Machine.expireAt
  split
  · exact h
  · next r hr => exact h.applyEffect hr (bindings_expireRecord s.tableTime r)

theorem LinesAgree.expireAll {s : State} (h : LinesAgree s) (l : List SlotId) : LinesAgree (expireAll s l) := by
  induction l generalizing s with
  | nil => exact h
  | cons i rest ih => exact ih (h.expireAt i)

/-- Deliveries one after another, from head to tail (R104). -/
theorem deliverAll_eq_foldl (assert : Bool) (s : State) (l : List SlotId) :
    deliverAll assert s l = l.foldl (deliver assert) s := by
  induction l generalizing s with
  | nil => rfl
  | cons i rest ih => exact ih (deliver assert s i)

/-! ### Retirement (R14) -/

/-- A record off the line it is bound to is off every line. -/
theorem listeners_left {s : State} {k : Line} (h : TrgAgrees s k) {i : SlotId} {x : Rec} (hx : recordAt s i = some x) :
    (if x.triggerBinding = some k then dropSlot i (s.trg.get k).listeners else (s.trg.get k).listeners) =
      dropSlot i (s.trg.get k).listeners := by
  obtain ⟨_, hmem⟩ := h
  split
  · rfl
  · next hk => rw [dropSlot_of_not_mem fun hi => hk ((triggerAt_eq hx).symm.trans ((hmem i).1 hi))]

/-- A retired record leaves its two lines with its slot. -/
theorem LinesAgree.retireRecord {s : State} (h : LinesAgree s) {i : SlotId} {x : Rec} (hx : recordAt s i = some x) :
    LinesAgree (retireRecord s i x) := by
  have hother : ∀ j, j ≠ i → recordAt (Machine.retireRecord s i x) j = recordAt s j := fun j hj => by
    rw [recordAt_retireRecord, if_neg hj]
  have hself : recordAt (Machine.retireRecord s i x) i = none := by rw [recordAt_retireRecord, if_pos rfl]
  have houtput : outputAt (Machine.retireRecord s i x) i = none := by rw [outputAt, hself]; rfl
  have htrigger : triggerAt (Machine.retireRecord s i x) i = none := by rw [triggerAt, hself]; rfl
  refine ⟨freeSlotsLaw_retireRecord h.free hx, fun k => ?_, fun k => ?_⟩
  · have hline := retireRecord_get_evt s i x k
    split at hline
    · next hk => exact (h.evt k).released hother ((outputAt_eq hx).trans hk) (by simp [houtput]) hline
    · next hk => exact (h.evt k).elsewhere hother (by rwa [outputAt_eq hx]) (by simp [houtput]) hline
  · refine (h.trg k).left hother (by simp [htrigger]) ?_
    rw [retireRecord_get_trg, apply_ite TrgLine.listeners]
    exact listeners_left (h.trg k) hx

end Sys2Proof.Machine
end

section
/-! SUPPORT. What each command leaves of the agreement between the records and the lines. -/

namespace Sys2Proof.Machine

open Host (Outcome)
open Sys2Proof.Safety Sys2Proof.Claims

/-! ### CREATE, RETIRE and RELABEL -/

/-- The slot at the head of the free list is filled and leaves the list (R13). -/
theorem freeSlotsLaw_fillSlot {s : State} (h : FreeSlotsLaw s) {i : SlotId} {rest : List SlotId}
    (hfree : s.freeList = i :: rest) (new : Rec) : FreeSlotsLaw (putRecord { s with freeList := rest } i new) := by
  obtain ⟨hnodup, hnone⟩ := h
  rw [hfree] at hnodup hnone
  obtain ⟨hhead, hrest⟩ := List.nodup_cons.1 hnodup
  refine ⟨hrest, fun j hj => ?_⟩
  have hji : j ≠ i := fun hji => hhead (hji ▸ hj)
  rw [recordAt_putRecord_of_ne _ _ hji]
  exact hnone j (List.mem_cons_of_mem i hj)

/-- A record created on no line: a slot that was FREE and one whose record is unbound are the same to the lines. -/
theorem LinesAgree.fillSlot {s : State} (h : LinesAgree s) {i : SlotId} {rest : List SlotId}
    (hfree : s.freeList = i :: rest) {new : Rec} (hnew : wiring new = (none, none, none)) :
    LinesAgree (putRecord { s with freeList := rest } i new) := by
  obtain ⟨_, hfreeSlots⟩ := h.free
  have hnone : recordAt s i = none := hfreeSlots i (by rw [hfree]; exact List.mem_cons_self)
  have hother : ∀ j, j ≠ i → recordAt (putRecord { s with freeList := rest } i new) j = recordAt s j := fun j hj =>
    recordAt_putRecord_of_ne _ new hj
  have hself : recordAt (putRecord { s with freeList := rest } i new) i = some new := recordAt_putRecord_self _ i new
  obtain ⟨houtput, hrest⟩ := Prod.mk.inj hnew
  obtain ⟨hlevel, htrigger⟩ := Prod.mk.inj hrest
  refine ⟨freeSlotsLaw_fillSlot h.free hfree new, fun k => (h.evt k).congr rfl (bind_eq_of_others hother ?_)
    (bind_eq_of_others hother ?_), fun k => (h.trg k).congr rfl fun j => ?_⟩
  · rw [hself, hnone]
    exact houtput
  · rw [hself, hnone]
    exact hlevel
  · have htriggerAt := bind_eq_of_others (f := Rec.triggerBinding) hother (by rw [hself, hnone]; exact htrigger) j
    rw [triggerAt, triggerAt, htriggerAt]

theorem createAnswer_leaves_linesAgree {s : State} (h : LinesAgree s) (r : Serving) :
    (createAnswer s r).Leaves LinesAgree := by
  unfold createAnswer createRecord
  split
  · split_ifs
    · exact leaves_refuse _ _
    · exact leaves_refuse _ _
    · split
      · exact leaves_refuse _ _
      · next hfree => exact (h.fillSlot hfree rfl).of_sameWiring (.of_eq rfl rfl rfl rfl)
  · exact leaves_refuse _ _

theorem retireAnswer_leaves_linesAgree {s : State} (h : LinesAgree s) (r : Serving) :
    (retireAnswer s r).Leaves LinesAgree :=
  leaves_withOwned fun _ hx _ => h.retireRecord (recordAt_of_liveRecord hx)

theorem SameWiring.relabelRecord {s : State} {i : SlotId} {x : Rec} (hx : recordAt s i = some x) (tag : BitVec 16)
    (priority : Fin 4) (share : Bool) : SameWiring s (relabelRecord s i x tag priority share) := by
  have hwritten : SameWiring s (Machine.putRecord s i { x with tag := tag, priority := priority, share := share }) :=
    .putRecord hx rfl
  unfold Machine.relabelRecord
  dsimp only
  split <;> exact hwritten.trans (.of_eq rfl rfl rfl rfl)

theorem relabelAnswer_leaves_sameWiring (s : State) (r : Serving) : (relabelAnswer s r).Leaves (SameWiring s) := by
  unfold relabelAnswer
  split
  · exact leaves_withOwned fun _ hx _ => .relabelRecord (recordAt_of_liveRecord hx) _ _ _
  · exact leaves_refuse _ _

/-! ### ARM, DISARM and REVISE -/

theorem armAnswer_leaves_linesAgree {s : State} (h : LinesAgree s) (r : Serving) :
    (armAnswer s r).Leaves LinesAgree := by
  refine leaves_withOwned fun x hx _ => ?_
  split_ifs
  · exact leaves_refuse _ _
  · exact leaves_refuse _ _
  · exact h.applyEffect (recordAt_of_liveRecord hx) ((bindings_armRecord _ _ _).trans (bindings_takeStaged x))

theorem disarmAnswer_leaves_linesAgree {s : State} (h : LinesAgree s) (r : Serving) :
    (disarmAnswer s r).Leaves LinesAgree := by
  refine leaves_withOwned fun x hx _ => ?_
  split
  · exact leaves_refuse _ _
  · exact h.applyEffect (recordAt_of_liveRecord hx) (bindings_disarmRecord x)

theorem reviseAnswer_leaves_linesAgree {s : State} (h : LinesAgree s) (r : Serving) :
    (reviseAnswer s r).Leaves LinesAgree := by
  unfold reviseAnswer
  split
  · exact leaves_refuse _ _
  · exact leaves_withOwned fun x hx _ => h.applyEffect (recordAt_of_liveRecord hx) (bindings_reviseRecord _ x _)

/-! ### Bindings (R107, R111, R112) -/

theorem levelAt_putEvt (s : State) (k : Line) (l : EvtLine) (i : SlotId) : levelAt (putEvt s k l) i = levelAt s i := rfl

/-- A BIND-OUTPUT to a new line takes that line and releases the one before. -/
theorem bindOutputRecord_get_evt {s : State} {i : SlotId} {x : Rec} {k : Line} (hnew : x.outputBinding ≠ some k)
    (j : Line) :
    (bindOutputRecord s i x k).evt.get j =
      if j = k then { s.evt.get k with bound := some i, driven := drivenLevel (s.evt.get k).idle (some .inactive) }
      else if x.outputBinding = some j then { s.evt.get j with bound := none, driven := (s.evt.get j).idle }
      else s.evt.get j := by
  have hreleased : ∀ j, (releaseBinding s x.outputBinding).evt.get j = (retireOutput s x).evt.get j := fun _ => rfl
  simp only [bindOutputRecord, if_neg hnew, drive, putEvt_evt, putRecord_evt, Table.set_set, Table.get_set_self,
    Table.get_set _ k j, hreleased, retireOutput_get_evt]
  split
  · rw [boundLevel_of_some _ rfl, levelAt_putEvt, levelAt_eq (recordAt_putRecord_self _ i _)]
  · rfl

theorem recordAt_bindOutputRecord {s : State} {i : SlotId} {x : Rec} {k : Line} (hnew : x.outputBinding ≠ some k)
    (j : SlotId) :
    recordAt (bindOutputRecord s i x k) j =
      if j = i then some { x with outputBinding := some k, outputLevel := some .inactive } else recordAt s j := by
  rw [bindOutputRecord, if_neg hnew]
  dsimp only
  rw [recordAt_eq_of_slots (drive_slots _ _), recordAt_eq_of_slots (putEvt_slots _ _ _), recordAt_putRecord,
    recordAt_eq_of_slots (releaseBinding_slots s _)]

theorem LinesAgree.bindOutputRecord {s : State} (h : LinesAgree s) {i : SlotId} {x : Rec} (hx : recordAt s i = some x)
    {k : Line} (hopen : boundElsewhere s k i = false) : LinesAgree (bindOutputRecord s i x k) := by
  by_cases hnew : x.outputBinding = some k
  · rwa [Machine.bindOutputRecord, if_pos hnew]
  have hrecord := recordAt_bindOutputRecord (s := s) (i := i) hnew
  have hother : ∀ j, j ≠ i → recordAt (Machine.bindOutputRecord s i x k) j = recordAt s j := fun j hj => by
    rw [hrecord, if_neg hj]
  have hself := (hrecord i).trans (if_pos rfl)
  have hnow := outputAt_eq hself
  have hfree : (Machine.bindOutputRecord s i x k).freeList = s.freeList := by
    rw [Machine.bindOutputRecord, if_neg hnew]
    cases x.outputBinding <;> rfl
  have htrg : (Machine.bindOutputRecord s i x k).trg = s.trg := by
    rw [Machine.bindOutputRecord, if_neg hnew]
    cases x.outputBinding <;> rfl
  refine h.of_evt hx hself hother hfree htrg rfl fun j => ?_
  have hline := bindOutputRecord_get_evt (s := s) (i := i) hnew j
  split_ifs at hline with hj hold
  · subst hj
    refine (h.evt j).joined hother (fun m hm => ?_) hnow (by rw [hline]) (by rw [hline, levelAt_eq hself])
    simpa [boundElsewhere, hm] using hopen
  · exact (h.evt j).released hother ((outputAt_eq hx).trans hold) (by simpa [hnow] using Ne.symm hj) hline
  · exact (h.evt j).elsewhere hother (by rwa [outputAt_eq hx]) (by simpa [hnow] using Ne.symm hj) hline

theorem bindOutputAnswer_leaves_linesAgree {s : State} (h : LinesAgree s) (r : Serving) :
    (bindOutputAnswer s r).Leaves LinesAgree := by
  unfold bindOutputAnswer
  split
  · exact leaves_refuse _ _
  · refine leaves_withIdle fun x hx _ _ => ?_
    split
    · exact leaves_refuse _ _
    · next hopen => exact h.bindOutputRecord (recordAt_of_liveRecord hx) (Bool.not_eq_true _ ▸ hopen)

/-- A BIND-TRIGGER to a new line joins the tail of its list and leaves the list it was on. -/
theorem bindTriggerRecord_listeners {s : State} {i : SlotId} {x : Rec} {k : Line} (hnew : x.triggerBinding ≠ some k)
    (j : Line) :
    ((bindTriggerRecord s i x k).trg.get j).listeners =
      if j = k then (s.trg.get k).listeners ++ [i]
      else if x.triggerBinding = some j then dropSlot i (s.trg.get j).listeners
      else (s.trg.get j).listeners := by
  have hleft : ∀ j, (unlistenBinding s i x.triggerBinding).trg.get j = (retireTrigger s i x).trg.get j := fun _ => rfl
  simp only [bindTriggerRecord, if_neg hnew, putTrg_trg, putRecord_trg, Table.get_set _ k j, hleft,
    retireTrigger_get_trg]
  split_ifs <;> rfl

theorem recordAt_bindTriggerRecord {s : State} {i : SlotId} {x : Rec} {k : Line} (hnew : x.triggerBinding ≠ some k)
    (j : SlotId) :
    recordAt (bindTriggerRecord s i x k) j =
      if j = i then some { x with triggerBinding := some k } else recordAt s j := by
  rw [bindTriggerRecord, if_neg hnew]
  dsimp only
  rw [recordAt_eq_of_slots (putTrg_slots _ _ _), recordAt_putRecord, recordAt_eq_of_slots (unlistenBinding_slots s i _)]

theorem LinesAgree.bindTriggerRecord {s : State} (h : LinesAgree s) {i : SlotId} {x : Rec} (hx : recordAt s i = some x)
    (k : Line) : LinesAgree (bindTriggerRecord s i x k) := by
  by_cases hnew : x.triggerBinding = some k
  · rwa [Machine.bindTriggerRecord, if_pos hnew]
  have hrecord := recordAt_bindTriggerRecord (s := s) (i := i) hnew
  have hother : ∀ j, j ≠ i → recordAt (Machine.bindTriggerRecord s i x k) j = recordAt s j := fun j hj => by
    rw [hrecord, if_neg hj]
  have hself := (hrecord i).trans (if_pos rfl)
  have hnow := triggerAt_eq hself
  have hfree : (Machine.bindTriggerRecord s i x k).freeList = s.freeList := by
    rw [Machine.bindTriggerRecord, if_neg hnew]
    cases x.triggerBinding <;> rfl
  have hevt : (Machine.bindTriggerRecord s i x k).evt = s.evt := by
    rw [Machine.bindTriggerRecord, if_neg hnew]
    cases x.triggerBinding <;> rfl
  refine h.of_trg hx hself hother hfree hevt rfl rfl fun j => ?_
  have hlisteners := bindTriggerRecord_listeners (s := s) (i := i) hnew j
  by_cases hj : j = k
  · subst hj
    exact (h.trg j).joined hother (by rwa [triggerAt_eq hx]) hnow (by rwa [if_pos rfl] at hlisteners)
  · rw [if_neg hj, listeners_left (h.trg j) hx] at hlisteners
    exact (h.trg j).left hother (by simpa [hnow] using Ne.symm hj) hlisteners

theorem bindTriggerAnswer_leaves_linesAgree {s : State} (h : LinesAgree s) (r : Serving) :
    (bindTriggerAnswer s r).Leaves LinesAgree := by
  unfold bindTriggerAnswer
  split
  · exact leaves_refuse _ _
  · exact leaves_withIdle fun x hx _ _ => h.bindTriggerRecord (recordAt_of_liveRecord hx) _

/-- A record unbound from its output line, and the line released. -/
theorem LinesAgree.releaseLine_putRecord {s : State} (h : LinesAgree s) {i : SlotId} {x y : Rec} {k : Line}
    (hx : recordAt s i = some x) (hk : x.outputBinding = some k) (houtput : y.outputBinding = none)
    (htrigger : y.triggerBinding = x.triggerBinding) : LinesAgree (releaseLine (putRecord s i y) k) := by
  have hother : ∀ j, j ≠ i → recordAt (releaseLine (putRecord s i y) k) j = recordAt s j := fun j hj =>
    recordAt_putRecord_of_ne s y hj
  have hself : recordAt (releaseLine (putRecord s i y) k) i = some y := recordAt_putRecord_self s i y
  have hnow : ∀ j, outputAt (releaseLine (putRecord s i y) k) i ≠ some j := fun j => by
    rw [outputAt_eq hself, houtput]
    nofun
  refine h.of_evt hx hself hother rfl rfl htrigger fun j => ?_
  by_cases hj : j = k
  · subst hj
    exact (h.evt j).released hother ((outputAt_eq hx).trans hk) (hnow j) (by simp)
  · refine (h.evt j).elsewhere hother ?_ (hnow j) (Table.get_set_of_ne _ _ hj)
    rw [outputAt_eq hx, hk]
    simpa using Ne.symm hj

theorem LinesAgree.unbindOutput {s : State} (h : LinesAgree s) {i : SlotId} {x : Rec} (hx : recordAt s i = some x) :
    LinesAgree (unbindOutput s i x) := by
  unfold Machine.unbindOutput
  split
  · exact h
  · next k hk => exact h.releaseLine_putRecord hx hk rfl rfl

/-- A record unbound from its trigger line, and out of the line's list. -/
theorem LinesAgree.unlisten_putRecord {s : State} (h : LinesAgree s) {i : SlotId} {x y : Rec} {k : Line}
    (hx : recordAt s i = some x) (hk : x.triggerBinding = some k) (htrigger : y.triggerBinding = none)
    (houtput : y.outputBinding = x.outputBinding) (hlevel : y.outputLevel = x.outputLevel) :
    LinesAgree (unlisten (putRecord s i y) k i) := by
  have hother : ∀ j, j ≠ i → recordAt (unlisten (putRecord s i y) k i) j = recordAt s j := fun j hj =>
    recordAt_putRecord_of_ne s y hj
  have hself : recordAt (unlisten (putRecord s i y) k i) i = some y := recordAt_putRecord_self s i y
  have hlisteners : ∀ j, ((unlisten (putRecord s i y) k i).trg.get j).listeners =
      if x.triggerBinding = some j then dropSlot i (s.trg.get j).listeners else (s.trg.get j).listeners := fun j => by
    rw [unlisten_trg, putRecord_trg, Table.get_set, hk]
    by_cases hj : j = k
    · simp [hj]
    · simp [hj, Ne.symm hj]
  refine h.of_trg hx hself hother rfl rfl houtput hlevel fun j => (h.trg j).left hother ?_ ?_
  · rw [triggerAt_eq hself, htrigger]
    nofun
  · rw [hlisteners, listeners_left (h.trg j) hx]

theorem LinesAgree.unbindTrigger {s : State} (h : LinesAgree s) {i : SlotId} {x : Rec} (hx : recordAt s i = some x) :
    LinesAgree (unbindTrigger s i x) := by
  unfold Machine.unbindTrigger
  split
  · exact h
  · next k hk => exact h.unlisten_putRecord hx hk rfl rfl rfl

theorem unbindAnswer_leaves_linesAgree {s : State} (h : LinesAgree s) (r : Serving) :
    (unbindAnswer s r).Leaves LinesAgree := by
  unfold unbindAnswer
  split
  · exact leaves_refuse _ _
  · next kind _ =>
    refine leaves_withIdle fun x hx _ _ => ?_
    have hr := recordAt_of_liveRecord hx
    cases kind with
    | output => exact h.unbindOutput hr
    | trigger => exact h.unbindTrigger hr

/-! ### Configuration (R108, R113) -/

/-- A change of a TRG line's polarity or last detected level leaves its listener list. -/
theorem SameWiring.putTrg (s : State) (k : Line) {l : TrgLine} (hl : l.listeners = (s.trg.get k).listeners) :
    SameWiring s (putTrg s k l) :=
  ⟨rfl, rfl, fun j => Table.apply_get_set TrgLine.listeners hl j, fun _ => rfl⟩

theorem configureTriggerAnswer_leaves_sameWiring (s : State) (r : Serving) :
    (configureTriggerAnswer s r).Leaves (SameWiring s) := by
  unfold configureTriggerAnswer
  split
  · split
    · exact leaves_refuse _ _
    · exact .putTrg s _ rfl
  · exact leaves_refuse _ _

/-- An unbound line drives its idle polarity, whichever it is given (R113). -/
theorem LinesAgree.putEvt_unbound {s : State} (h : LinesAgree s) {k : Line} {l : EvtLine}
    (hold : (s.evt.get k).bound = none) (hunbound : l.bound = none) (hidle : l.driven = l.idle) :
    LinesAgree (putEvt s k l) := by
  refine ⟨h.free, fun j => ?_, h.trg⟩
  by_cases hj : j = k
  · subst hj
    obtain ⟨hiff, _⟩ := h.evt j
    rw [EvtAgrees, putEvt_evt, Table.get_set_self, boundLevel_of_none _ hunbound, hunbound, ← hold]
    exact ⟨hiff, hidle⟩
  · exact (h.evt j).congr (Table.get_set_of_ne _ _ hj) (fun _ => rfl) fun _ => rfl

theorem configureOutputAnswer_leaves_linesAgree {s : State} (h : LinesAgree s) (r : Serving) :
    (configureOutputAnswer s r).Leaves LinesAgree := by
  unfold configureOutputAnswer
  split
  · split
    · exact leaves_refuse _ _
    · next hunbound => exact h.putEvt_unbound (not_ne_iff.1 hunbound) (not_ne_iff.1 hunbound) rfl
  · exact leaves_refuse _ _

/-! ### Attention -/

theorem collectAnswer_leaves_sameWiring (s : State) (r : Serving) : (collectAnswer s r).Leaves (SameWiring s) := by
  unfold collectAnswer
  split
  · exact leaves_refuse _ _
  · exact (SameWiring.takeEntries s r.port _).trans (.of_eq rfl rfl rfl rfl)

theorem acknowledgeAnswer_leaves_sameWiring (s : State) (r : Serving) :
    (acknowledgeAnswer s r).Leaves (SameWiring s) := by
  refine leaves_withOwned fun x _ _ => ?_
  split
  · exact (SameWiring.takeEntry s r.port _).trans (.of_eq rfl rfl rfl rfl)
  · exact .refl s

theorem setMaskAnswer_leaves_sameWiring (s : State) (r : Serving) : (setMaskAnswer s r).Leaves (SameWiring s) := by
  unfold setMaskAnswer
  split
  · exact leaves_refuse _ _
  · exact .of_eq rfl rfl rfl rfl

/-! ### Offers -/

theorem SameWiring.openOffer {s : State} {i : SlotId} {x : Rec} (hx : recordAt s i = some x) (o : Offer) :
    SameWiring s (openOffer s i x o) := by
  have hopened : SameWiring s { s with offers := s.offers ++ [o] } := .of_eq rfl rfl rfl rfl
  have hx' : recordAt { s with offers := s.offers ++ [o] } i = some x := hx
  exact (hopened.trans (.putRecord (y := { x with offered := true }) hx' rfl)).trans (.of_eq rfl rfl rfl rfl)

theorem offerAnswer_leaves_sameWiring (s : State) (r : Serving) : (offerAnswer s r).Leaves (SameWiring s) := by
  unfold offerAnswer
  split
  · exact leaves_refuse _ _
  · split
    · exact leaves_refuse _ _
    · refine leaves_withOwned fun x hx _ => ?_
      unfold offerRecord
      split_ifs
      · exact leaves_refuse _ _
      · exact leaves_refuse _ _
      · exact leaves_refuse _ _
      · exact .openOffer (recordAt_of_liveRecord hx) _

/-- The record that is handed over keeps its bindings (R141). -/
theorem SameWiring.acceptRecord {s : State} {i : SlotId} {x : Rec} (hx : recordAt s i = some x) (c : Client) :
    SameWiring s (acceptRecord s i x c) := by
  have hx' : recordAt (Machine.removeOffer s i) i = some { x with offered := false } := by
    rw [Machine.removeOffer, recordAt_mapRecord, if_pos rfl]
    exact congrArg (Option.map fun r : Rec => { r with offered := false }) hx
  have hhanded := (SameWiring.removeOffer s i).trans (.putRecord (y := { x with owner := c, offered := false }) hx' rfl)
  unfold Machine.acceptRecord moveEntry
  dsimp only
  split <;> exact hhanded.trans (.of_eq rfl rfl rfl rfl)

theorem acceptAnswer_leaves_sameWiring (s : State) (r : Serving) : (acceptAnswer s r).Leaves (SameWiring s) := by
  refine leaves_withIncoming fun x o hx _ _ => ?_
  split
  · exact leaves_refuse _ _
  · exact .acceptRecord (recordAt_of_liveRecord hx) r.port

theorem declineAnswer_leaves_sameWiring (s : State) (r : Serving) : (declineAnswer s r).Leaves (SameWiring s) :=
  leaves_withIncoming fun _ o _ _ _ => .endOffer s o

theorem withdrawAnswer_leaves_sameWiring (s : State) (r : Serving) : (withdrawAnswer s r).Leaves (SameWiring s) := by
  refine leaves_withOwned fun _ _ _ => ?_
  split
  · exact leaves_refuse _ _
  · exact .endOffer s _

/-! ### Time, supervision, and the requests that only read -/

/-- A rebase moves due times, which the lines do not read (R37). -/
theorem SameWiring.startTime (s : State) (new : Time) (n : Nat) : SameWiring s (startTime s new n) := by
  refine ⟨rfl, rfl, fun _ => rfl, fun i => ?_⟩
  rw [wiringAt, recordAt_startTime, Option.map_map]
  rfl

theorem startTimeAnswer_leaves_sameWiring (s : State) (r : Serving) : (startTimeAnswer s r).Leaves (SameWiring s) := by
  unfold startTimeAnswer
  split_ifs
  · exact leaves_refuse _ _
  · exact leaves_refuse _ _
  · exact .startTime s _ _

theorem stopTimeAnswer_leaves_sameWiring (s : State) (r : Serving) : (stopTimeAnswer s r).Leaves (SameWiring s) := by
  unfold stopTimeAnswer
  split
  · exact leaves_refuse _ _
  · exact .of_eq rfl rfl rfl rfl

theorem setReleasePolicyAnswer_leaves_sameWiring (s : State) (r : Serving) :
    (setReleasePolicyAnswer s r).Leaves (SameWiring s) := by
  unfold setReleasePolicyAnswer
  split
  · exact leaves_refuse _ _
  · exact .of_eq rfl rfl rfl rfl

theorem queryAnswer_leaves_sameWiring (s : State) (r : Serving) : (queryAnswer s r).Leaves (SameWiring s) := by
  unfold queryAnswer
  split
  · exact .refl s
  · exact leaves_refuse _ _

theorem querySetAnswer_leaves_sameWiring (s : State) (r : Serving) : (querySetAnswer s r).Leaves (SameWiring s) := by
  unfold querySetAnswer
  split
  · exact leaves_refuse _ _
  · exact .refl s

theorem setQuotaAnswer_leaves_sameWiring (s : State) (r : Serving) : (setQuotaAnswer s r).Leaves (SameWiring s) := by
  unfold setQuotaAnswer
  split
  · exact leaves_refuse _ _
  · split_ifs
    · exact leaves_refuse _ _
    · exact leaves_refuse _ _
    · exact .of_eq rfl rfl rfl rfl

theorem grantControlAnswer_leaves_sameWiring (s : State) (r : Serving) :
    (grantControlAnswer s r).Leaves (SameWiring s) := by
  unfold grantControlAnswer
  split
  · exact leaves_refuse _ _
  · exact .of_eq rfl rfl rfl rfl

theorem revokeControlAnswer_leaves_sameWiring (s : State) (r : Serving) :
    (revokeControlAnswer s r).Leaves (SameWiring s) := by
  unfold revokeControlAnswer
  split
  · exact leaves_refuse _ _
  · split
    · exact leaves_refuse _ _
    · exact .of_eq rfl rfl rfl rfl

theorem purgeClientAnswer_leaves_sameWiring (s : State) (r : Serving) :
    (purgeClientAnswer s r).Leaves (SameWiring s) := by
  unfold purgeClientAnswer
  split
  · exact leaves_refuse _ _
  · split
    · exact leaves_refuse _ _
    · exact .markClient s _

/-! ### Ports -/

theorem selFalls_sameWiring (s : State) (p : Client) : SameWiring s (selFalls s p) := by
  unfold selFalls
  split <;> exact .of_eq rfl rfl rfl rfl

theorem submitRises_sameWiring (s : State) (p : Client) (mosi : List Byte) : SameWiring s (submitRises s p mosi) := by
  unfold submitRises
  dsimp only
  split_ifs <;> exact .of_eq rfl rfl rfl rfl

theorem fetchRises_sameWiring (s : State) (p : Client) (mosi : List Byte) : SameWiring s (fetchRises s p mosi) := by
  unfold fetchRises
  dsimp only
  split_ifs <;> exact .of_eq rfl rfl rfl rfl

theorem ignoredRises_sameWiring (s : State) (p : Client) (mosi : List Byte) : SameWiring s (ignoredRises s p mosi) := by
  unfold ignoredRises
  dsimp only
  split_ifs <;> exact .of_eq rfl rfl rfl rfl

theorem selectPort_sameWiring (s : State) (p : Client) : SameWiring s (selectPort s p) := by
  unfold selectPort
  split <;> exact .of_eq rfl rfl rfl rfl

/-! ### The purge scan and RESET -/

theorem LinesAgree.purgeStep {s : State} (h : LinesAgree s) (c : Client) (i : SlotId) :
    LinesAgree (moveCursor (examineSlot s c i) c i) := by
  have hexamined : LinesAgree (examineSlot s c i) := by
    unfold examineSlot
    cases hr : recordAt s i with
    | none => exact h
    | some r =>
      dsimp only
      split
      · exact h.retireRecord hr
      · exact h
  unfold moveCursor
  split <;> exact hexamined.of_sameWiring (.of_eq rfl rfl rfl rfl)

/-- After RESET no line is bound, every line drives LOW, its idle polarity, and no list holds a record (R117). -/
theorem linesAgree_afterReset (pins : Pins) : LinesAgree (State.afterReset pins) := by
  have hnone : ∀ i, recordAt (State.afterReset pins) i = none := fun i => by
    rw [recordAt, State.afterReset, Table.get_fill]
  have hevt : ∀ k, (State.afterReset pins).evt.get k = { idle := .low, bound := none, driven := .low } := fun k => by
    rw [State.afterReset, Table.get_fill]
  have hlisteners : ∀ k, ((State.afterReset pins).trg.get k).listeners = [] := fun k => by
    rw [State.afterReset, Table.get_map]
  refine ⟨(timingFrom_afterReset pins).free, fun k => ?_, fun k => ?_⟩
  · rw [EvtAgrees, hevt]
    exact ⟨fun i => by simp [outputAt, hnone], rfl⟩
  · rw [TrgAgrees, hlisteners]
    exact ⟨List.nodup_nil, fun i => by simp [triggerAt, hnone]⟩

/-- The model's own counters, which a RESET leaves, stand outside the law (log entry 20). -/
theorem SameWiring.withPending (s : State) (draws : Nat) (pending : List Instr) :
    SameWiring s { s with freeDraws := draws, pending := pending } := .of_eq rfl rfl rfl rfl

/-! ### Every command -/

theorem LinesAgree.takeRequest {s : State} (h : LinesAgree s) (k : Kind) {act : State → Serving → Answer}
    (hact : ∀ r, (act s r).Leaves LinesAgree) : LinesAgree (takeRequest s k act) :=
  takeRequest_keeps h (fun t r code payload ht => ht.of_sameWiring (.post t r code payload)) hact

/-- A request whose rule leaves the lines and the records' ties to them. -/
theorem LinesAgree.takeRequest_of_sameWiring {s : State} (h : LinesAgree s) (k : Kind)
    {act : State → Serving → Answer} (hact : ∀ r, (act s r).Leaves (SameWiring s)) :
    LinesAgree (Machine.takeRequest s k act) :=
  h.takeRequest k fun r => leaves_mono (hact r) fun _ ht => h.of_sameWiring ht

/-- Every command, by its meaning. -/
theorem linesAgree_exec {c : Instr} {s t : State} (h : LinesAgree s) (hexec : exec c s = .next t) : LinesAgree t := by
  cases c with
  | submit p edge =>
    cases edge with
    | falls => cases hexec; exact h.of_sameWiring (selFalls_sameWiring s p)
    | rises mosi => cases hexec; exact h.of_sameWiring (submitRises_sameWiring s p mosi)
  | fetch p edge =>
    cases edge with
    | falls => cases hexec; exact h.of_sameWiring (selFalls_sameWiring s p)
    | rises mosi => cases hexec; exact h.of_sameWiring (fetchRises_sameWiring s p mosi)
  | ignoredTransfer p edge =>
    cases edge with
    | falls => cases hexec; exact h.of_sameWiring (selFalls_sameWiring s p)
    | rises mosi => cases hexec; exact h.of_sameWiring (ignoredRises_sameWiring s p mosi)
  | fetchCodeRecognised p =>
    simp only [exec, execFetchCodeRecognised] at hexec
    split at hexec
    · cases hexec; exact h.of_sameWiring (selFalls_sameWiring s p)
    · cases hexec; exact h.of_sameWiring (.of_eq rfl rfl rfl rfl)
  | selection =>
    simp only [exec, execSelection] at hexec
    split at hexec
    · cases hexec; exact h.of_sameWiring (selectPort_sameWiring s _)
    · cases hexec; exact h
    · cases hexec; exact h
  | unknownRequest =>
    simp only [exec, execUnknownRequest] at hexec
    split at hexec
    · cases hexec; exact h
    · split at hexec
      · cases hexec; exact h.of_sameWiring (.post s _ _ _)
      · cases hexec; exact h
  | create => cases hexec; exact h.takeRequest .create (createAnswer_leaves_linesAgree h)
  | retire => cases hexec; exact h.takeRequest .retire (retireAnswer_leaves_linesAgree h)
  | arm => cases hexec; exact h.takeRequest .arm (armAnswer_leaves_linesAgree h)
  | disarm => cases hexec; exact h.takeRequest .disarm (disarmAnswer_leaves_linesAgree h)
  | revise => cases hexec; exact h.takeRequest .revise (reviseAnswer_leaves_linesAgree h)
  | relabel => cases hexec; exact h.takeRequest_of_sameWiring .relabel (relabelAnswer_leaves_sameWiring s)
  | query => cases hexec; exact h.takeRequest_of_sameWiring .query (queryAnswer_leaves_sameWiring s)
  | querySet => cases hexec; exact h.takeRequest_of_sameWiring .querySet (querySetAnswer_leaves_sameWiring s)
  | bindOutput => cases hexec; exact h.takeRequest .bindOutput (bindOutputAnswer_leaves_linesAgree h)
  | bindTrigger => cases hexec; exact h.takeRequest .bindTrigger (bindTriggerAnswer_leaves_linesAgree h)
  | unbind => cases hexec; exact h.takeRequest .unbind (unbindAnswer_leaves_linesAgree h)
  | collect => cases hexec; exact h.takeRequest_of_sameWiring .collect (collectAnswer_leaves_sameWiring s)
  | acknowledge => cases hexec; exact h.takeRequest_of_sameWiring .acknowledge (acknowledgeAnswer_leaves_sameWiring s)
  | setMask => cases hexec; exact h.takeRequest_of_sameWiring .setMask (setMaskAnswer_leaves_sameWiring s)
  | offer => cases hexec; exact h.takeRequest_of_sameWiring .offer (offerAnswer_leaves_sameWiring s)
  | accept => cases hexec; exact h.takeRequest_of_sameWiring .accept (acceptAnswer_leaves_sameWiring s)
  | decline => cases hexec; exact h.takeRequest_of_sameWiring .decline (declineAnswer_leaves_sameWiring s)
  | withdraw => cases hexec; exact h.takeRequest_of_sameWiring .withdraw (withdrawAnswer_leaves_sameWiring s)
  | listOffers => cases hexec; exact h.takeRequest .listOffers fun _ => h
  | readTime => cases hexec; exact h.takeRequest .readTime fun _ => h
  | startTime => cases hexec; exact h.takeRequest_of_sameWiring .startTime (startTimeAnswer_leaves_sameWiring s)
  | stopTime => cases hexec; exact h.takeRequest_of_sameWiring .stopTime (stopTimeAnswer_leaves_sameWiring s)
  | holdTime => cases hexec; exact h.takeRequest_of_sameWiring .holdTime fun _ => .of_eq rfl rfl rfl rfl
  | releaseTime => cases hexec; exact h.takeRequest_of_sameWiring .releaseTime fun _ => .of_eq rfl rfl rfl rfl
  | setReleasePolicy =>
    cases hexec; exact h.takeRequest_of_sameWiring .setReleasePolicy (setReleasePolicyAnswer_leaves_sameWiring s)
  | configureTrigger =>
    cases hexec; exact h.takeRequest_of_sameWiring .configureTrigger (configureTriggerAnswer_leaves_sameWiring s)
  | configureOutput => cases hexec; exact h.takeRequest .configureOutput (configureOutputAnswer_leaves_linesAgree h)
  | setQuota => cases hexec; exact h.takeRequest_of_sameWiring .setQuota (setQuotaAnswer_leaves_sameWiring s)
  | grantControl =>
    cases hexec; exact h.takeRequest_of_sameWiring .grantControl (grantControlAnswer_leaves_sameWiring s)
  | revokeControl =>
    cases hexec; exact h.takeRequest_of_sameWiring .revokeControl (revokeControlAnswer_leaves_sameWiring s)
  | purgeClient => cases hexec; exact h.takeRequest_of_sameWiring .purgeClient (purgeClientAnswer_leaves_sameWiring s)
  | deviceStatus => cases hexec; exact h.takeRequest .deviceStatus fun _ => h
  | purgeStep =>
    simp only [exec, execPurgeStep] at hexec
    split at hexec
    · cases hexec; exact h
    · cases hexec; exact h.purgeStep _ _
  | portReset p =>
    have hreset : LinesAgree (assertPortReset s p) := h.of_sameWiring (.of_eq rfl rfl rfl rfl)
    simp only [exec, execPortReset] at hexec
    split_ifs at hexec
    · cases hexec; exact h
    · cases hexec; exact hreset
    · cases hexec; exact hreset.of_sameWiring (.markClient _ p)
  | portResetRelease p =>
    simp only [exec, execPortResetRelease] at hexec
    split at hexec
    · cases hexec; exact h.of_sameWiring (.of_eq rfl rfl rfl rfl)
    · cases hexec; exact h
  | holdinAsserts => cases hexec; exact h.of_sameWiring (.of_eq rfl rfl rfl rfl)
  | holdinDeasserts => cases hexec; exact h.of_sameWiring (.of_eq rfl rfl rfl rfl)
  | triggerEvent k level =>
    simp only [exec, execTriggerEvent] at hexec
    split at hexec
    · cases hexec; exact h
    · have hwritten : LinesAgree (putTrg s k { s.trg.get k with level := level }) :=
        h.of_sameWiring (.putTrg s k rfl)
      cases hexec; exact hwritten.deliverAll _ _
  | owedAdvance =>
    simp only [exec, execOwedAdvance] at hexec
    split at hexec
    · cases hexec; exact h.of_sameWiring (.of_eq rfl rfl rfl rfl)
    · cases hexec; exact h
  | advance =>
    have hticked : LinesAgree (tick s) := h.of_sameWiring (.of_eq rfl rfl rfl rfl)
    simp only [exec, execAdvance] at hexec
    split at hexec
    · cases hexec; exact hticked.expireAll _
    · cases hexec; exact h
  | expiry =>
    simp only [exec, execExpiry] at hexec
    split at hexec
    · cases hexec; exact h
    · cases hexec; exact h.expireAt _
  | lapse i =>
    simp only [exec, execLapse] at hexec
    split at hexec
    · cases hexec; exact h
    · split at hexec
      · cases hexec; exact h.of_sameWiring (.endOffer s _)
      · cases hexec; exact h
  | reset pins => cases hexec; exact (linesAgree_afterReset pins).of_sameWiring (.withPending _ _ _)
  | refclkPhaseEdge =>
    simp only [exec, execRefclkPhaseEdge] at hexec
    split at hexec
    · cases hexec; exact h.of_sameWiring (.of_eq rfl rfl rfl rfl)
    · cases hexec; exact h

end Sys2Proof.Machine
end

section
/-! CERTIFICATE. The statements about trigger lines and event outputs (06_trigger_lines_and_event_outputs.md). -/

namespace Sys2Proof.Claims

open Sys2Proof.Machine Sys2Proof.Safety

/-- Settles O10: `LineLaw` is `LinesAgree`, which every command keeps. Only the bindings of the record that a command names
can change, and with them the lines they name; an event drives the record's own line. -/
theorem lineLawKept : Obligations.LineLawKept :=
  keptByStep_of_exec
    (fun _ _ h => linesAgree_iff.1 ((linesAgree_iff.2 h).of_sameWiring (.of_eq rfl rfl rfl rfl)))
    fun _ _ _ h hexec => linesAgree_iff.1 (linesAgree_exec (linesAgree_iff.2 h) hexec)

/-- Settles O35: a delivery to a list is a fold over it from its head. -/
theorem triggerEventIsDeliveredInListOrder : Obligations.TriggerEventIsDeliveredInListOrder := by
  intro s k level hchange
  rw [exec, execTriggerEvent, if_neg hchange, deliverAll_eq_foldl]
  rfl

end Sys2Proof.Claims
end

section
/-! SUPPORT. ATTN: when a line is to be asserted, in terms of the records and offers it follows, and what a RELABEL makes of its
owner's set. -/

namespace Sys2Proof.Machine

open Sys2Proof.Safety Sys2Proof.Claims

/-! ### The line rule (R124) -/

theorem attnPin_eq_low {s : State} {c : Client} : attnPin s c = .low ↔ (s.attn.get c).line = true := by
  unfold attnPin
  cases (s.attn.get c).line <;> decide

theorem attnPin_eq_high {s : State} {c : Client} : attnPin s c = .high ↔ (s.attn.get c).line = false := by
  unfold attnPin
  cases (s.attn.get c).line <;> decide

theorem priorityAt_of_recordAt {s : State} {i : SlotId} {x : Rec} (h : recordAt s i = some x) :
    priorityAt s i = x.priority.val := by
  rw [priorityAt, h]

/-- A priority is 0..3, so the mask level 4 passes none. -/
theorem priorityAt_lt_four (s : State) (i : SlotId) : priorityAt s i < 4 := by
  unfold priorityAt
  cases recordAt s i with
  | none => exact Nat.zero_lt_succ 3
  | some x => exact x.priority.isLt

theorem incomingOffer_iff {s : State} {c : Client} : incomingOffer s c = true ↔ ∃ o ∈ s.offers, o.receiver = c := by
  simp [incomingOffer]

theorem attnAsserts_iff {s : State} {c : Client} :
    attnAsserts s c = true ↔
      (∃ i ∈ (s.attn.get c).set, (s.attn.get c).mask ≤ priorityAt s i) ∨
        (∃ o ∈ s.offers, o.receiver = c) ∧ (s.attn.get c).mask < 4 := by
  rw [attnAsserts, Bool.or_eq_true, Bool.and_eq_true, incomingOffer_iff, List.any_eq_true]
  simp only [decide_eq_true_eq]

/-- The mask level 4 silences a line (R124). -/
theorem attnAsserts_of_mask_eq_four {s : State} {c : Client} (h : (s.attn.get c).mask = 4) : attnAsserts s c = false := by
  rw [← Bool.not_eq_true, attnAsserts_iff, h]
  rintro (⟨i, _, hle⟩ | ⟨_, hlt⟩)
  · exact absurd (priorityAt_lt_four s i) (Nat.not_lt.2 hle)
  · exact Nat.lt_irrefl 4 hlt

/-- An entry of a set has a record, so its priority is that record's. -/
theorem mask_le_priorityAt_iff {s : State} (h : AttentionLaw s) {c : Client} {i : SlotId} (hi : i ∈ (s.attn.get c).set)
    (m : Nat) : m ≤ priorityAt s i ↔ ∃ x, recordAt s i = some x ∧ m ≤ x.priority.val := by
  obtain ⟨_, _, _, hmem, _⟩ := h
  obtain ⟨x, hx, _⟩ := (hmem c i).1 hi
  simp [priorityAt_of_recordAt hx, hx]

/-! ### RELABEL (R17, R121) -/

/-- The move of an entry whose record has been rewritten: out of the set, and to the tail of the group of the new priority. -/
theorem joinSet_leaveSet_putRecord (s : State) (c : Client) (i : SlotId) (y : Rec) :
    joinSet (leaveSet (putRecord s i y) c i) c i =
      { s with
        slots := slotsWith s i y
        attn := withSet s c
          (grouped s y.priority.val i ((s.attn.get c).set.filter fun j => decide (j ≠ i))) } := by
  have hgroup :
      joinGroup (priorityAt (leaveSet (putRecord s i y) c i)) i (dropSlot i (s.attn.get c).set) =
        grouped s y.priority.val i (dropSlot i (s.attn.get c).set) :=
    joinGroup_grouped (recordAt_putRecord_self s i y) (fun _ hne => recordAt_putRecord_of_ne s y hne) (by simp)
  have hattn : (joinSet (leaveSet (putRecord s i y) c i) c i).attn =
      withSet s c (grouped s y.priority.val i (dropSlot i (s.attn.get c).set)) := by
    rw [joinSet_attn, leaveSet_attn, putRecord_attn, Table.get_set_self, Table.set_set, hgroup]
    rfl
  exact congrArg (fun a => { s with slots := slotsWith s i y, attn := a }) hattn

/-- The effects of a RELABEL with the move, if there is one, written as the set that it leaves. -/
theorem relabelRecord_eq {x : Rec} {c : Client} (hc : x.owner = c) (s : State) (i : SlotId) (tag : BitVec 16)
    (priority : Fin 4) (share : Bool) :
    relabelRecord s i x tag priority share =
      relined
        { s with
          slots := slotsWith s i { x with tag := tag, priority := priority, share := share }
          attn :=
            withSet s c
              (if (x.unacknowledged && decide (priority ≠ x.priority)) = true then
                grouped s priority.val i ((s.attn.get c).set.filter fun j => decide (j ≠ i))
              else (s.attn.get c).set) }
        c := by
  subst hc
  by_cases hmoves : x.unacknowledged = true ∧ priority ≠ x.priority
  · have hset : (x.unacknowledged && decide (priority ≠ x.priority)) = true := by simpa using hmoves
    rw [relabelRecord, if_pos hmoves, if_pos hset, joinSet_leaveSet_putRecord, refreshAttn_eq_relined]
  · have hset : ¬ (x.unacknowledged && decide (priority ≠ x.priority)) = true := by simpa using hmoves
    rw [relabelRecord, if_neg hmoves, if_neg hset, withSet_self, refreshAttn_eq_relined]
    rfl

end Sys2Proof.Machine
end

section
/-! CERTIFICATE. The statements about attention (07_attention.md). -/

namespace Sys2Proof.Claims

open Sys2Proof.Machine Sys2Proof.Safety

/-- Settles O14: the line is `attnAsserts`, and each entry of the set has a record to take the priority of. -/
theorem attentionLineLevel : Obligations.AttentionLineLevel := by
  intro s c hlaw
  have hline : (s.attn.get c).line = attnAsserts s c := linesFollow_of_attentionLaw hlaw c
  have ⟨_, _, _, _, _, hmask, _⟩ := hlaw
  refine ⟨?_, hmask c, fun hfour => ?_⟩
  · rw [attnPin_eq_low, hline, attnAsserts_iff]
    exact or_congr_left (exists_congr fun i => and_congr_right fun hi => mask_le_priorityAt_iff hlaw hi _)
  · rw [attnPin_eq_high, hline, attnAsserts_of_mask_eq_four hfour]

/-- A RELABEL with its arguments in range is judged by ownership, with each argument as it was sent (R17, R173). -/
theorem relabelAnswer_eq {s : State} {r : Serving} {h : Handle} {tag : BitVec 16} {priority : Fin 4} {share : Bool}
    (hs : InService s r .relabel (handleBytes h ++ byte2 tag.toNat ++ byte1 priority.val ++ yesNo share)) :
    relabelAnswer s r = withOwned s r.port h fun x =>
      .accept .ok (yesNo x.unacknowledged ++ yesNo (x.unacknowledged && decide (priority ≠ x.priority)))
        (relabelRecord s h.slot x tag priority share) := by
  obtain ⟨_, ⟨_, hb⟩, _⟩ := hs
  have hhandle : argHandle r.body 2 = h := by rw [hb]; exact argHandle_first h _
  have htag : BitVec.ofNat 16 (arg2 r.body 4) = tag := by rw [hb]; exact tag_reads tag
  have hpriority : below 4 (arg1 r.body 6) = some priority := by rw [hb]; exact below_byte (by decide) priority
  have hshare : shareOf (arg1 r.body 7) = some share := by rw [hb]; exact shareOf_byte share
  rw [relabelAnswer, hpriority, hshare, hhandle, htag]

/-- Settles O24: the arguments read back as they were sent, and `relabelRecord` is the set that the move leaves with the line
recomputed. -/
theorem relabelRewritesAndMoves : Obligations.RelabelRewritesAndMoves := by
  intro s r h tag priority share hs
  obtain ⟨howner, hexec⟩ :=
    ownerOnly_of_withOwned (c := .relabel) (act := relabelAnswer) hs rfl rfl (relabelAnswer_eq hs)
  refine ⟨howner, fun x hx hport => ?_⟩
  exact (hexec x hx hport).trans (by rw [answered, relabelRecord_eq hport])

end Sys2Proof.Claims
end

section
/-! SUPPORT. Offers: how a request on an incoming offer is judged, what an OFFER opens, and what an ACCEPT makes of the record,
the owned counts and the attention sets. -/

namespace Sys2Proof.Machine

open Sys2Proof.Safety Sys2Proof.Claims

/-! ### The offer of a record (R136) -/

/-- With at most one offer for any record, the one that is found is the one in the table. -/
theorem offerOf_eq_some_iff {s : State} (h : OfferTableLaw s) {i : SlotId} {o : Offer} :
    offerOf s i = some o ↔ o ∈ s.offers ∧ o.record = i := by
  obtain ⟨hnodup, _⟩ := h
  refine ⟨offerOf_some, fun ⟨ho, hrecord⟩ => ?_⟩
  cases hfound : offerOf s i with
  | none => exact absurd (decide_eq_true hrecord) (List.find?_eq_none.1 hfound o ho)
  | some q =>
    obtain ⟨hq, hqrecord⟩ := offerOf_some hfound
    rw [List.inj_on_of_nodup_map hnodup hq ho (hqrecord.trans hrecord.symm)]

theorem withIncoming_of_stale {s : State} {c : Client} {h : Handle} (hn : ∀ x, ¬ Names s h x)
    (act : Rec → Offer → Answer) : withIncoming s c h act = .refuse .stale := by
  rw [withIncoming, not_live_of_not_names hn]

/-- A record with no offer to the requester is refused, whether it has one to another client or none. -/
theorem withIncoming_of_no_offer {s : State} {c : Client} {h : Handle} {x : Rec} (hx : Names s h x)
    (hnone : ∀ o ∈ s.offers, o.record = h.slot → o.receiver ≠ c) (act : Rec → Offer → Answer) :
    withIncoming s c h act = .refuse .noOffer := by
  rw [withIncoming, names_iff_live.1 hx]
  cases hfound : offerOf s h.slot with
  | none => rfl
  | some o =>
    obtain ⟨ho, hrecord⟩ := offerOf_some hfound
    exact if_neg (hnone o ho hrecord)

theorem withIncoming_of_offer {s : State} (hlaw : OfferTableLaw s) {h : Handle} {x : Rec} (hx : Names s h x) {o : Offer}
    (ho : o ∈ s.offers) (hrecord : o.record = h.slot) (act : Rec → Offer → Answer) :
    withIncoming s o.receiver h act = act x o := by
  rw [withIncoming, names_iff_live.1 hx, (offerOf_eq_some_iff hlaw).2 ⟨ho, hrecord⟩]
  exact if_pos rfl

/-- The record loses its offer field with its offer (R4). -/
theorem removeOffer_eq_offerEnded {s : State} {i : SlotId} {x : Rec} (hx : recordAt s i = some x) :
    removeOffer s i = offerEnded s i x := by
  have hx' : recordAt { s with offers := s.offers.filter fun o => decide (o.record ≠ i) } i = some x := hx
  rw [removeOffer, mapRecord, hx']
  rfl

/-! ### OFFER (R138, R139) -/

/-- The state in which `c` has been offered the record `x` in slot `i`, until the point `lapse`. -/
def offeredTo (s : State) (i : SlotId) (x : Rec) (giver c : Client) (lapse : Time) : State :=
  relined
    { s with
      slots := slotsWith s i { x with offered := true }
      offers := s.offers ++ [{ record := i, giver := giver, receiver := c, lapse := lapse }] }
    c

section Offer

variable {s : State} {i : SlotId} {x : Rec} {giver c : Client} {n : Nat}

/-- What an OFFER of the requester's record `x` in slot `i` to client `c` is answered (R138, steps 5 to 7). -/
def offerRule (s : State) (i : SlotId) (giver c : Client) (n : Nat) (x : Rec) : Answer :=
  if x.offered then .refuse .alreadyOffered
  else if s.purging.get c then .refuse .purging
  else if Config.offerLimit ≤ s.offers.length then .refuse .offerFull
  else
    .accept .ok (offerPayload (openOffer s i x (newOffer s i giver c n)) (newOffer s i giver c n))
      (openOffer s i x (newOffer s i giver c n))

/-- With its receiver and its interval in range, an OFFER is judged by owner and then by its rule. -/
theorem offerAnswer_eq {r : Serving} {h : Handle} (hh : argHandle r.body 2 = h)
    (hclient : below 4 (arg1 r.body 4) = some c) (hn : arg3 r.body 5 = n) (hother : c ≠ r.port) (hpos : 1 ≤ n) :
    offerAnswer s r = withOwned s r.port h (offerRule s h.slot r.port c n) := by
  have hrange : ¬ (c = r.port ∨ n = 0) := fun hout => hout.elim hother (Nat.ne_of_gt hpos)
  subst hh hn
  rw [offerAnswer, hclient]
  exact if_neg hrange

theorem offerRule_of_offered (hx : x.offered = true) : offerRule s i giver c n x = .refuse .alreadyOffered := if_pos hx

theorem offerRule_of_purging (hx : x.offered = false) (hpurging : s.purging.get c = true) :
    offerRule s i giver c n x = .refuse .purging := by
  rw [offerRule, if_neg (by simp [hx]), if_pos hpurging]

theorem offerRule_of_full (hx : x.offered = false) (hpurging : s.purging.get c = false) (hfull : 32 ≤ s.offers.length) :
    offerRule s i giver c n x = .refuse .offerFull := by
  rw [offerRule, if_neg (by simp [hx]), if_neg (by simp [hpurging])]
  exact if_pos hfull

/-- The opened offer lapses the whole interval ahead, and the table is one longer (R176). -/
theorem offerRule_of_room (hx : x.offered = false) (hpurging : s.purging.get c = false) (hroom : s.offers.length < 32)
    (hmax : n ≤ 16777215) :
    offerRule s i giver c n x =
      .accept .ok (timeBytes (after s.tableTime n) ++ byte3 n ++ byte1 (s.offers.length + 1))
        (offeredTo s i x giver c (after s.tableTime n)) := by
  have hlimit : ¬ Config.offerLimit ≤ s.offers.length := Nat.not_le.2 hroom
  have hopen : openOffer s i x (newOffer s i giver c n) = offeredTo s i x giver c (after s.tableTime n) := rfl
  have hpayload : offerPayload (offeredTo s i x giver c (after s.tableTime n)) (newOffer s i giver c n) =
      timeBytes (after s.tableTime n) ++ byte3 (ahead s.tableTime (after s.tableTime n)) ++
        byte1 (s.offers ++ [newOffer s i giver c n]).length := rfl
  rw [offerRule, if_neg (by simp [hx]), if_neg (by simp [hpurging]), if_neg hlimit, hopen, hpayload,
    ahead_after _ (by omega), List.length_append, List.length_singleton]

end Offer

/-! ### ACCEPT (R140, R141) -/

section Accept

variable {s : State} {i : SlotId} {x : Rec} {c : Client}

/-- The attention sets with the entry of slot `i` moved from client `giver` to the tail of group `p` of client `c` (R122). -/
def entryMoved (s : State) (i : SlotId) (p : Nat) (giver c : Client) : Table Attn 4 :=
  (withSet s giver ((s.attn.get giver).set.filter fun j => decide (j ≠ i))).set c
    { s.attn.get c with set := grouped s p i (s.attn.get c).set }

/-- The state in which client `c` owns the record `x` in slot `i` and counts it, with the attention sets as they were. -/
def reowned (s : State) (i : SlotId) (x : Rec) (c : Client) : State :=
  { s with
    slots := slotsWith s i { x with owner := c, offered := false }
    offers := s.offers.filter fun q => decide (q.record ≠ i)
    owned := (s.owned.set x.owner (s.owned.get x.owner - 1)).set c (s.owned.get c + 1) }

/-- The state in which client `c` has taken over the record `x` in slot `i` with its attention entry, if it has one, before the
ATTN lines are recomputed (R141). -/
def handedOver (s : State) (i : SlotId) (x : Rec) (c : Client) : State :=
  { reowned s i x c with
    attn := if x.unacknowledged = true then entryMoved s i x.priority.val x.owner c else s.attn }

/-- An ACCEPT ends the offer and writes the new owner and the two owned counts, the requester's read after the giver's has
fallen; then the entry moves and the lines are recomputed. -/
theorem acceptRecord_eq_reowned (hx : recordAt s i = some x) (hc : c ≠ x.owner) :
    acceptRecord s i x c = relined (relined (moveEntry (reowned s i x c) i x c) x.owner) c := by
  simp only [acceptRecord, refreshAttn_eq_relined, removeOffer_eq_offerEnded hx, putRecord, putOwned, offerEnded, reowned,
    slotsWith, Table.set_set, Table.get_set_self, Table.get_set_of_ne _ _ hc]

/-- An entry leaves one client's set and joins another's, in a state that differs from `s` in the record of the entry's slot
and in no attention set. -/
theorem joinSet_leaveSet_attn {u : State} {y : Rec} {giver : Client} (hattn : u.attn = s.attn)
    (hi : recordAt u i = some y) (hother : ∀ j, j ≠ i → recordAt u j = recordAt s j) (hc : c ≠ giver)
    (hnew : i ∉ (s.attn.get c).set) :
    (joinSet (leaveSet u giver i) c i).attn = entryMoved s i y.priority.val giver c := by
  have hgroup : joinGroup (priorityAt (leaveSet u giver i)) i (s.attn.get c).set =
      grouped s y.priority.val i (s.attn.get c).set := joinGroup_grouped hi hother hnew
  rw [joinSet_attn, leaveSet_attn, hattn, Table.get_set_of_ne _ _ hc, hgroup]
  rfl

/-- Under the attention law the new owner's set does not hold the record already, so its entry joins the tail of its group. -/
theorem moveEntry_reowned (hlaw : AttentionLaw s) (hx : recordAt s i = some x) (hc : c ≠ x.owner) :
    moveEntry (reowned s i x c) i x c = handedOver s i x c := by
  by_cases hu : x.unacknowledged = true
  · have hnew : i ∉ (s.attn.get c).set := fun hi => hc (owner_of_mem_set hlaw hx hi).1.symm
    have hattn := joinSet_leaveSet_attn (s := s) (u := reowned s i x c) (y := { x with owner := c, offered := false }) rfl
      (recordAt_putRecord_self s i _) (fun _ hne => recordAt_putRecord_of_ne s _ hne) hc hnew
    rw [moveEntry, if_pos hu, handedOver, if_pos hu]
    exact congrArg (fun a => { reowned s i x c with attn := a }) hattn
  · rw [moveEntry, if_neg hu, handedOver, if_neg hu]
    rfl

/-- The state after an ACCEPT by client `c` of the record `x` in slot `i`: both ATTN lines are recomputed (R141). -/
def takenOver (s : State) (i : SlotId) (x : Rec) (c : Client) : State :=
  relined (relined (handedOver s i x c) x.owner) c

theorem acceptRecord_eq (hlaw : AttentionLaw s) (hx : recordAt s i = some x) (hc : c ≠ x.owner) :
    acceptRecord s i x c = takenOver s i x c := by
  rw [acceptRecord_eq_reowned hx hc, moveEntry_reowned hlaw hx hc, takenOver]

theorem takenOver_get_owned (s : State) (i : SlotId) (x : Rec) (c : Client) :
    (takenOver s i x c).owned.get c = s.owned.get c + 1 := Table.get_set_self _ _ _

/-- The generation of the slot stands, and so does the handle. -/
theorem handleAt_takenOver (s : State) (i : SlotId) (x : Rec) (c : Client) :
    handleAt (takenOver s i x c) i = handleAt s i := by
  have hslot : (takenOver s i x c).slots.get i =
      { generation := (s.slots.get i).generation, record := some { x with owner := c, offered := false } } :=
    Table.get_set_self _ _ _
  rw [handleAt, hslot, handleAt]

/-- What an ACCEPT of the record in slot `i` is answered, once its offer to the requester has been found (R140, R141). -/
def acceptRule (s : State) (i : SlotId) (c : Client) (x : Rec) (o : Offer) : Answer :=
  if s.quota.get c ≤ s.owned.get c then .refuse .quota
  else .accept .ok (acceptPayload (acceptRecord s i x c) i x o c) (acceptRecord s i x c)

theorem acceptAnswer_eq {r : Serving} {h : Handle} (hh : argHandle r.body 2 = h) :
    acceptAnswer s r = withIncoming s r.port h (acceptRule s h.slot r.port) := by
  subst hh
  rfl

theorem acceptRule_of_quota {o : Offer} (hquota : s.quota.get c ≤ s.owned.get c) :
    acceptRule s i c x o = .refuse .quota := if_pos hquota

theorem acceptRule_of_room (hlaw : AttentionLaw s) (hx : recordAt s i = some x) (hc : c ≠ x.owner) {o : Offer}
    (hroom : s.owned.get c < s.quota.get c) :
    acceptRule s i c x o = .accept .ok (acceptPayload (takenOver s i x c) i x o c) (takenOver s i x c) := by
  rw [acceptRule, if_neg (Nat.not_le.2 hroom), acceptRecord_eq hlaw hx hc]

end Accept

end Sys2Proof.Machine
end

section
/-! CERTIFICATE. The statements about handing over records (08_handing_over_records.md). -/

namespace Sys2Proof.Claims

open Sys2Proof.Machine Sys2Proof.Safety

/-! ### OFFER -/

/-- The arguments of an OFFER, read from its body (Table 10-1). -/
theorem offerArgs_inService {s : State} {r : Serving} {h : Handle} {c : Client} {n : Nat} (hmax : n ≤ 16777215)
    (hs : InService s r .offer (handleBytes h ++ byte1 c.val ++ byte3 n)) :
    argHandle r.body 2 = h ∧ below 4 (arg1 r.body 4) = some c ∧ arg3 r.body 5 = n := by
  obtain ⟨_, ⟨_, hbody⟩, _⟩ := hs
  rw [hbody]
  exact ⟨argHandle_first h _, below_byte (by decide) c, byte3_reads (Nat.lt_succ_of_le hmax)⟩

/-- Settles O40: the arguments read back as they were sent, and the four clauses are the four branches of `offerRule`. -/
theorem offerOpensAtTheTail : Obligations.OfferOpensAtTheTail := by
  intro s r h c n hother hpos hmax hs
  obtain ⟨hhandle, hclient, hticks⟩ := offerArgs_inService hmax hs
  obtain ⟨howner, hexec⟩ :=
    ownerOnly_of_withOwned (c := .offer) (act := offerAnswer) hs rfl rfl
      (offerAnswer_eq hhandle hclient hticks hother hpos)
  refine ⟨howner, fun x hx hport => ?_⟩
  have hanswer := hexec x hx hport
  refine ⟨fun hoffered => ?_, fun hfree hpurging => ?_, fun hfree hpurging hfull => ?_,
    fun hfree hpurging hroom => ?_⟩
  · rwa [offerRule_of_offered hoffered] at hanswer
  · rwa [offerRule_of_purging hfree hpurging] at hanswer
  · rwa [offerRule_of_full hfree hpurging hfull] at hanswer
  · rwa [offerRule_of_room hfree hpurging hroom hmax] at hanswer

/-! ### ACCEPT -/

/-- The giver of an offer owns the record, and it is not the receiver (R136). -/
theorem giver_of_offerLaw {s : State} (hlaw : OfferLaw s) {o : Offer} (ho : o ∈ s.offers) {x : Rec}
    (hx : recordAt s o.record = some x) : o.giver = x.owner ∧ o.receiver ≠ x.owner := by
  obtain ⟨_, _, _, hoffers⟩ := hlaw
  obtain ⟨howner, hother, _⟩ := hoffers o ho
  have hgiver : x.owner = o.giver := by simpa [hx] using howner
  exact ⟨hgiver.symm, hgiver ▸ hother⟩

/-- The presence byte of two optional items has bit 0 for the first and bit 1 for the second (R181). -/
theorem presence_pair (a b : Bool) :
    presence [a, b] = byte1 ((if a = true then 1 else 0) + (if b = true then 2 else 0)) := by
  cases a <;> cases b <;> rfl

/-- The payload of an ACCEPT, read off the record as it was offered: only its handle and the requester's count are looked up in
the state that the handing over leaves (R141, R176). -/
theorem acceptPayload_eq {t : State} {i : SlotId} {h : Handle} (hh : handleAt t i = h) {o : Offer} {x : Rec}
    (hgiver : o.giver = x.owner) {c : Client} {n : Nat} (hn : t.owned.get c = n) :
    acceptPayload t i x o c =
      byte1 ((if x.outputBinding.isSome = true then 1 else 0) + (if x.triggerBinding.isSome = true then 2 else 0))
        ++ handleBytes h ++ byte1 x.owner.val ++ byte1 x.mode.code ++ byte1 x.state.code ++ byte2 x.tag.toNat
        ++ byte1 x.priority.val ++ yesNo x.share ++ yesNo x.unacknowledged
        ++ byte1 (if x.unacknowledged = true then x.overrun else 0) ++ byte2 n
        ++ optBytes (fun k => byte1 k.val) x.outputBinding ++ optBytes (fun k => byte1 k.val) x.triggerBinding := by
  rw [acceptPayload, presence_pair, hh, hgiver, hn]
  rfl

/-- The handle of a record stands when it is taken over (R141). -/
theorem handleAt_takenOver_of_names {s : State} {h : Handle} {x : Rec} (hx : Names s h x) (c : Client) :
    handleAt (takenOver s h.slot x c) h.slot = h := by
  rw [handleAt_takenOver, handleAt, hx]

/-- Settles O41: the refusals are the branches of `withIncoming` and of `acceptRule`. The offer law gives the giver, who owns
the record and is not the requester; the attention law then says that the requester's set does not hold the record yet. -/
theorem acceptHandsTheRecordOver : Obligations.AcceptHandsTheRecordOver := by
  intro s r h hs hoffers hattention
  have hrefuse : ∀ {code}, acceptAnswer s r = .refuse code → Refuses .accept s r code := refuses_of_refuse hs rfl rfl
  have hjudged := acceptAnswer_eq (s := s) (argHandle_inService hs)
  refine ⟨fun hstale => ?_, fun x hx => ⟨fun hnone => ?_, fun o ho hrecord hreceiver => ?_⟩⟩
  · exact hrefuse (hjudged.trans (withIncoming_of_stale hstale _))
  · exact hrefuse (hjudged.trans (withIncoming_of_no_offer hx hnone _))
  · have ⟨_, htable, _⟩ := hoffers
    have hrule : acceptAnswer s r = acceptRule s h.slot r.port x o := by
      rw [hjudged, ← hreceiver, withIncoming_of_offer htable hx ho hrecord]
    have hrecordAt : recordAt s h.slot = some x := recordAt_of_names hx
    obtain ⟨hgiver, hother⟩ := giver_of_offerLaw hoffers ho (hrecord ▸ hrecordAt)
    refine ⟨fun hquota => hrefuse (hrule.trans (acceptRule_of_quota hquota)), fun hroom => ?_⟩
    have haccept := acceptRule_of_room (o := o) hattention hrecordAt (hreceiver ▸ hother) hroom
    rw [acceptPayload_eq (handleAt_takenOver_of_names hx r.port) hgiver (takenOver_get_owned s h.slot x r.port)] at haccept
    exact answers_of_accept hs rfl rfl (hrule.trans haccept)

end Sys2Proof.Claims
end

section
/-! SUPPORT. The rule of each kind of request, and what every rule answers with: a refusal, or a success whose code lies below
0x40, whose payload has a byte, and whose effects touch no port. -/

namespace Sys2Proof.Machine

open Sys2Proof.Claims

/-! ### Payloads are not empty (R181) -/

@[simp] theorem byte1_ne_nil (n : Nat) : byte1 n ≠ [] := List.cons_ne_nil _ _

@[simp] theorem byte2_ne_nil (n : Nat) : byte2 n ≠ [] := List.cons_ne_nil _ _

@[simp] theorem yesNo_ne_nil (b : Bool) : yesNo b ≠ [] := List.cons_ne_nil _ _

@[simp] theorem presence_ne_nil (items : List Bool) : presence items ≠ [] := byte1_ne_nil _

@[simp] theorem timeBytes_ne_nil (t : Time) : timeBytes t ≠ [] := List.cons_ne_nil _ _

/-- A record report begins with the handle (Table 10-10). -/
theorem recordReport_ne_nil (now : Time) (h : Handle) (x : Rec) (offered : Option Offer) :
    recordReport now h x offered ≠ [] := by
  simp [recordReport]

/-- A record that may be read is reported (R18). -/
theorem report_ne_nil_of_readRecord {s : State} {c : Client} {h : Handle} {report : List Byte}
    (hread : readRecord s c h = (.ok, report)) : report ≠ [] := by
  unfold readRecord at hread
  split at hread
  · cases hread
  · split at hread
    · cases hread
      exact recordReport_ne_nil _ _ _ _
    · cases hread

/-! ### The effects of a request leave the ports -/

@[simp] theorem releaseBinding_ports (s : State) (binding : Option Line) : (releaseBinding s binding).ports = s.ports := by
  cases binding <;> rfl

@[simp] theorem unlistenBinding_ports (s : State) (i : SlotId) (binding : Option Line) :
    (unlistenBinding s i binding).ports = s.ports := by
  cases binding <;> rfl

@[simp] theorem bindOutputRecord_ports (s : State) (i : SlotId) (x : Rec) (k : Line) :
    (bindOutputRecord s i x k).ports = s.ports := by
  unfold bindOutputRecord
  split
  · rfl
  · exact releaseBinding_ports s x.outputBinding

@[simp] theorem bindTriggerRecord_ports (s : State) (i : SlotId) (x : Rec) (k : Line) :
    (bindTriggerRecord s i x k).ports = s.ports := by
  unfold bindTriggerRecord
  split
  · rfl
  · exact unlistenBinding_ports s i x.triggerBinding

@[simp] theorem unbindOutput_ports (s : State) (i : SlotId) (x : Rec) : (unbindOutput s i x).ports = s.ports := by
  unfold unbindOutput
  split <;> rfl

@[simp] theorem unbindTrigger_ports (s : State) (i : SlotId) (x : Rec) : (unbindTrigger s i x).ports = s.ports := by
  unfold unbindTrigger
  split <;> rfl

@[simp] theorem unbindRecord_ports (s : State) (i : SlotId) (x : Rec) (kind : BindingKind) :
    (unbindRecord s i x kind).ports = s.ports := by
  cases kind with
  | output => exact unbindOutput_ports s i x
  | trigger => exact unbindTrigger_ports s i x

@[simp] theorem relabelRecord_ports (s : State) (i : SlotId) (x : Rec) (tag : BitVec 16) (priority : Fin 4)
    (share : Bool) : (relabelRecord s i x tag priority share).ports = s.ports := by
  unfold relabelRecord
  dsimp only
  split <;> rfl

@[simp] theorem moveEntry_ports (s : State) (i : SlotId) (x : Rec) (c : Client) :
    (moveEntry s i x c).ports = s.ports := by
  unfold moveEntry
  split <;> rfl

@[simp] theorem acceptRecord_ports (s : State) (i : SlotId) (x : Rec) (c : Client) :
    (acceptRecord s i x c).ports = s.ports := by
  simp [acceptRecord]

/-! ### Answers that complete a request -/

/-- An answer whose posting completes a request taken in state `s`: a refusal; or a success with a code below 0x40, some payload,
and effects that leave the ports to the posting (R163, R175). -/
def Answer.Completes (s : State) : Answer → Prop
  | .refuse _ => True
  | .accept code payload t => code.byte.toNat < 0x40 ∧ payload ≠ [] ∧ t.ports = s.ports

@[simp] theorem completes_refuse (s : State) (code : ResultCode) : (Answer.refuse code).Completes s := trivial

theorem completes_ok {s t : State} {payload : List Byte} (hpayload : payload ≠ []) (hports : t.ports = s.ports) :
    (Answer.accept .ok payload t).Completes s := ⟨by decide, hpayload, hports⟩

theorem completes_withOwned {s : State} {c : Client} {h : Handle} {act : Rec → Answer}
    (hact : ∀ x, (act x).Completes s) : (withOwned s c h act).Completes s := by
  unfold withOwned
  split
  · exact completes_refuse s _
  · next x _ =>
    split
    · exact hact x
    · exact completes_refuse s _

theorem completes_withIdle {s : State} {c : Client} {h : Handle} {act : Rec → Answer}
    (hact : ∀ x, (act x).Completes s) : (withIdle s c h act).Completes s := by
  refine completes_withOwned fun x => ?_
  split
  · exact hact x
  · exact completes_refuse s _

theorem completes_withIncoming {s : State} {c : Client} {h : Handle} {act : Rec → Offer → Answer}
    (hact : ∀ x o, (act x o).Completes s) : (withIncoming s c h act).Completes s := by
  unfold withIncoming
  split
  · exact completes_refuse s _
  · next x _ =>
    split
    · exact completes_refuse s _
    · next o _ =>
      split
      · exact hact x o
      · exact completes_refuse s _

/-! ### Requests on a record as a whole -/

theorem createRecord_completes (s : State) (r : Serving) (new : Rec) : (createRecord s r new).Completes s := by
  unfold createRecord
  split
  · exact completes_refuse s _
  · split
    · exact completes_refuse s _
    · exact completes_ok (byte2_ne_nil _) rfl

theorem createAnswer_completes (s : State) (r : Serving) : (createAnswer s r).Completes s := by
  unfold createAnswer
  split
  · split
    · exact completes_refuse s _
    · exact createRecord_completes s r _
  · exact completes_refuse s _

theorem retireAnswer_completes (s : State) (r : Serving) : (retireAnswer s r).Completes s :=
  completes_withOwned fun x => completes_ok (by simp) (retireRecord_ports s _ x)

theorem relabelAnswer_completes (s : State) (r : Serving) : (relabelAnswer s r).Completes s := by
  unfold relabelAnswer
  split
  · exact completes_withOwned fun x => completes_ok (by simp) (relabelRecord_ports s _ x _ _ _)
  · exact completes_refuse s _

theorem queryAnswer_completes (s : State) (r : Serving) : (queryAnswer s r).Completes s := by
  unfold queryAnswer
  split
  · next report hread => exact completes_ok (report_ne_nil_of_readRecord hread) rfl
  · exact completes_refuse s _

theorem querySetAnswer_completes (s : State) (r : Serving) : (querySetAnswer s r).Completes s := by
  unfold querySetAnswer
  split
  · exact completes_refuse s _
  · exact completes_ok (by simp) rfl

/-! ### ARM, DISARM and REVISE -/

theorem armAnswer_completes (s : State) (r : Serving) : (armAnswer s r).Completes s := by
  refine completes_withOwned fun x => ?_
  split_ifs
  · exact completes_refuse s _
  · exact completes_refuse s _
  · exact completes_ok (by simp [armPayload]) (applyEffect_ports s _ _)

/-- FIRED_BEFORE is a success (R65, Table 10-9). -/
theorem disarmAnswer_completes (s : State) (r : Serving) : (disarmAnswer s r).Completes s := by
  refine completes_withOwned fun x => ?_
  split
  · exact completes_refuse s _
  · exact ⟨by split <;> decide, byte1_ne_nil _, applyEffect_ports s _ _⟩

theorem reviseAnswer_completes (s : State) (r : Serving) : (reviseAnswer s r).Completes s := by
  unfold reviseAnswer
  split
  · exact completes_refuse s _
  · exact completes_withOwned fun x => completes_ok (by simp [revisePayload]) (applyEffect_ports s _ _)

/-! ### Lines -/

theorem bindOutputAnswer_completes (s : State) (r : Serving) : (bindOutputAnswer s r).Completes s := by
  unfold bindOutputAnswer
  split
  · exact completes_refuse s _
  · refine completes_withIdle fun x => ?_
    split
    · exact completes_refuse s _
    · exact completes_ok (by simp [outputPayload]) (bindOutputRecord_ports s _ x _)

theorem bindTriggerAnswer_completes (s : State) (r : Serving) : (bindTriggerAnswer s r).Completes s := by
  unfold bindTriggerAnswer
  split
  · exact completes_refuse s _
  · exact completes_withIdle fun x => completes_ok (by simp) (bindTriggerRecord_ports s _ x _)

theorem unbindAnswer_completes (s : State) (r : Serving) : (unbindAnswer s r).Completes s := by
  unfold unbindAnswer
  split
  · exact completes_refuse s _
  · exact completes_withIdle fun x => completes_ok (by simp [unbindPayload]) (unbindRecord_ports s _ x _)

theorem configureTriggerAnswer_completes (s : State) (r : Serving) : (configureTriggerAnswer s r).Completes s := by
  unfold configureTriggerAnswer
  split
  · split
    · exact completes_refuse s _
    · exact completes_ok (by simp [triggerPayload]) rfl
  · exact completes_refuse s _

theorem configureOutputAnswer_completes (s : State) (r : Serving) : (configureOutputAnswer s r).Completes s := by
  unfold configureOutputAnswer
  split
  · split
    · exact completes_refuse s _
    · exact completes_ok (by simp [outputPayload]) rfl
  · exact completes_refuse s _

/-! ### Attention -/

theorem collectAnswer_completes (s : State) (r : Serving) : (collectAnswer s r).Completes s := by
  unfold collectAnswer
  split
  · exact completes_refuse s _
  · exact completes_ok (by simp) (takeEntries_ports s r.port _)

/-- NOTHING_PENDING is a success (R129, Table 10-9). -/
theorem acknowledgeAnswer_completes (s : State) (r : Serving) : (acknowledgeAnswer s r).Completes s := by
  refine completes_withOwned fun x => ?_
  split
  · exact completes_ok (by simp [acknowledgePayload]) (takeEntry_ports s r.port _)
  · exact ⟨by decide, by simp [acknowledgePayload], rfl⟩

theorem setMaskAnswer_completes (s : State) (r : Serving) : (setMaskAnswer s r).Completes s := by
  unfold setMaskAnswer
  split
  · exact completes_refuse s _
  · exact completes_ok (by simp) rfl

/-! ### Offers -/

theorem offerRecord_completes (s : State) (r : Serving) (x : Rec) (receiver : Client) (n : Nat) :
    (offerRecord s r x receiver n).Completes s := by
  unfold offerRecord
  split_ifs
  · exact completes_refuse s _
  · exact completes_refuse s _
  · exact completes_refuse s _
  · exact completes_ok (by simp [offerPayload]) rfl

theorem offerAnswer_completes (s : State) (r : Serving) : (offerAnswer s r).Completes s := by
  unfold offerAnswer
  split
  · exact completes_refuse s _
  · split
    · exact completes_refuse s _
    · exact completes_withOwned fun x => offerRecord_completes s r x _ _

theorem acceptAnswer_completes (s : State) (r : Serving) : (acceptAnswer s r).Completes s := by
  refine completes_withIncoming fun x o => ?_
  split
  · exact completes_refuse s _
  · exact completes_ok (by simp [acceptPayload]) (acceptRecord_ports s _ x r.port)

theorem declineAnswer_completes (s : State) (r : Serving) : (declineAnswer s r).Completes s :=
  completes_withIncoming fun _ o => completes_ok (byte1_ne_nil _) (endOffer_ports s o)

theorem withdrawAnswer_completes (s : State) (r : Serving) : (withdrawAnswer s r).Completes s := by
  refine completes_withOwned fun _ => ?_
  split
  · exact completes_refuse s _
  · exact completes_ok (by simp) (endOffer_ports s _)

theorem listOffersAnswer_completes (s : State) (r : Serving) : (listOffersAnswer s r).Completes s :=
  completes_ok (by simp) rfl

/-! ### The time base -/

theorem readTimeAnswer_completes (s : State) (r : Serving) : (readTimeAnswer s r).Completes s :=
  completes_ok (by simp) rfl

theorem startTimeAnswer_completes (s : State) (r : Serving) : (startTimeAnswer s r).Completes s := by
  unfold startTimeAnswer
  split_ifs
  · exact completes_refuse s _
  · exact completes_refuse s _
  · exact completes_ok (byte1_ne_nil _) rfl

theorem stopTimeAnswer_completes (s : State) (r : Serving) : (stopTimeAnswer s r).Completes s := by
  unfold stopTimeAnswer
  split
  · exact completes_refuse s _
  · exact completes_ok (byte1_ne_nil _) rfl

theorem holdTimeAnswer_completes (s : State) (r : Serving) : (holdTimeAnswer s r).Completes s :=
  completes_ok (byte1_ne_nil _) rfl

theorem releaseTimeAnswer_completes (s : State) (r : Serving) : (releaseTimeAnswer s r).Completes s :=
  completes_ok (byte1_ne_nil _) rfl

theorem setReleasePolicyAnswer_completes (s : State) (r : Serving) : (setReleasePolicyAnswer s r).Completes s := by
  unfold setReleasePolicyAnswer
  split
  · exact completes_refuse s _
  · exact completes_ok (by simp) rfl

/-! ### Supervision -/

theorem setQuotaAnswer_completes (s : State) (r : Serving) : (setQuotaAnswer s r).Completes s := by
  unfold setQuotaAnswer
  split
  · exact completes_refuse s _
  · split_ifs
    · exact completes_refuse s _
    · exact completes_refuse s _
    · exact completes_ok (by simp [setQuotaPayload]) rfl

theorem grantControlAnswer_completes (s : State) (r : Serving) : (grantControlAnswer s r).Completes s := by
  unfold grantControlAnswer
  split
  · exact completes_refuse s _
  · exact completes_ok (presence_ne_nil _) rfl

theorem revokeControlAnswer_completes (s : State) (r : Serving) : (revokeControlAnswer s r).Completes s := by
  unfold revokeControlAnswer
  split
  · exact completes_refuse s _
  · split
    · exact completes_refuse s _
    · exact completes_ok (presence_ne_nil _) rfl

theorem purgeClientAnswer_completes (s : State) (r : Serving) : (purgeClientAnswer s r).Completes s := by
  unfold purgeClientAnswer
  split
  · exact completes_refuse s _
  · next c _ =>
    split
    · exact completes_refuse s _
    · exact completes_ok (by simp) (markClient_ports s c)

theorem deviceStatusAnswer_completes (s : State) (r : Serving) : (deviceStatusAnswer s r).Completes s :=
  completes_ok (by simp) rfl

/-! ### Every kind -/

/-- The rule that judges a request of each kind. -/
def ruleOf : Kind → State → Serving → Answer
  | .create => createAnswer
  | .retire => retireAnswer
  | .arm => armAnswer
  | .disarm => disarmAnswer
  | .revise => reviseAnswer
  | .relabel => relabelAnswer
  | .query => queryAnswer
  | .querySet => querySetAnswer
  | .bindOutput => bindOutputAnswer
  | .bindTrigger => bindTriggerAnswer
  | .unbind => unbindAnswer
  | .collect => collectAnswer
  | .acknowledge => acknowledgeAnswer
  | .setMask => setMaskAnswer
  | .offer => offerAnswer
  | .accept => acceptAnswer
  | .decline => declineAnswer
  | .withdraw => withdrawAnswer
  | .listOffers => listOffersAnswer
  | .readTime => readTimeAnswer
  | .startTime => startTimeAnswer
  | .stopTime => stopTimeAnswer
  | .holdTime => holdTimeAnswer
  | .releaseTime => releaseTimeAnswer
  | .setReleasePolicy => setReleasePolicyAnswer
  | .configureTrigger => configureTriggerAnswer
  | .configureOutput => configureOutputAnswer
  | .setQuota => setQuotaAnswer
  | .grantControl => grantControlAnswer
  | .revokeControl => revokeControlAnswer
  | .purgeClient => purgeClientAnswer
  | .deviceStatus => deviceStatusAnswer

/-- The command of each kind takes the request in service and judges it by the rule of the kind (R162). -/
theorem exec_instrOf (k : Kind) (s : State) : exec (instrOf k) s = .next (takeRequest s k (ruleOf k)) := by
  cases k <;> rfl

theorem ruleOf_completes (k : Kind) (s : State) (r : Serving) : (ruleOf k s r).Completes s := by
  cases k with
  | create => exact createAnswer_completes s r
  | retire => exact retireAnswer_completes s r
  | arm => exact armAnswer_completes s r
  | disarm => exact disarmAnswer_completes s r
  | revise => exact reviseAnswer_completes s r
  | relabel => exact relabelAnswer_completes s r
  | query => exact queryAnswer_completes s r
  | querySet => exact querySetAnswer_completes s r
  | bindOutput => exact bindOutputAnswer_completes s r
  | bindTrigger => exact bindTriggerAnswer_completes s r
  | unbind => exact unbindAnswer_completes s r
  | collect => exact collectAnswer_completes s r
  | acknowledge => exact acknowledgeAnswer_completes s r
  | setMask => exact setMaskAnswer_completes s r
  | offer => exact offerAnswer_completes s r
  | accept => exact acceptAnswer_completes s r
  | decline => exact declineAnswer_completes s r
  | withdraw => exact withdrawAnswer_completes s r
  | listOffers => exact listOffersAnswer_completes s r
  | readTime => exact readTimeAnswer_completes s r
  | startTime => exact startTimeAnswer_completes s r
  | stopTime => exact stopTimeAnswer_completes s r
  | holdTime => exact holdTimeAnswer_completes s r
  | releaseTime => exact releaseTimeAnswer_completes s r
  | setReleasePolicy => exact setReleasePolicyAnswer_completes s r
  | configureTrigger => exact configureTriggerAnswer_completes s r
  | configureOutput => exact configureOutputAnswer_completes s r
  | setQuota => exact setQuotaAnswer_completes s r
  | grantControl => exact grantControlAnswer_completes s r
  | revokeControl => exact revokeControlAnswer_completes s r
  | purgeClient => exact purgeClientAnswer_completes s r
  | deviceStatus => exact deviceStatusAnswer_completes s r

/-- The general checks only refuse (R170 to R172). -/
theorem judge_completes (k : Kind) (s : State) (r : Serving) : (judge s k r (ruleOf k)).Completes s := by
  unfold judge
  split
  · exact completes_refuse s _
  · exact ruleOf_completes k s r

end Sys2Proof.Machine
end

section
/-! CERTIFICATE. The statements about the client ports (09_client_ports.md). -/

namespace Sys2Proof.Claims

open Sys2Proof.Machine Sys2Proof.Safety

/-- A request of kind `k` in service is judged by the rule of its kind, and the answer is posted. -/
theorem exec_instrOf_in_service {s : State} {r : Serving} {k : Kind} (hr : s.executor = some r)
    (hk : r.body.head? = some k.code) : exec (instrOf k) s = .next (respond s r (judge s k r (ruleOf k))) := by
  have hkind : kindOf (bodyByte r.body 0) = some k := by
    rw [bodyByte, List.getD_eq_getElem?_getD, ← List.head?_eq_getElem?, hk]
    exact kindOf_code k
  rw [exec_instrOf, takeRequest, hr]
  exact congrArg _ (if_pos hkind)

/-- Settles O18: the command posts one answer, which completes the request. A refusal is the one zero byte and leaves the
state; a success is no code of 0x40 or above. -/
theorem everyRequestIsAnsweredOnce : Obligations.EveryRequestIsAnsweredOnce := by
  intro s r k hr ⟨hlength, _⟩ hk
  have hexec := exec_instrOf_in_service hr hk
  have hcompletes := judge_completes k s r
  cases hanswer : judge s k r (ruleOf k) with
  | refuse code =>
    rw [hanswer, respond, post_eq_served (by omega)] at hexec
    exact ⟨s, code, [0], hexec, rfl, List.cons_ne_nil _ _, fun _ => ⟨rfl, rfl⟩⟩
  | accept code payload t =>
    rw [hanswer, respond, post_eq_served (by omega)] at hexec
    rw [hanswer] at hcompletes
    obtain ⟨hcode, hpayload, hports⟩ := hcompletes
    exact ⟨t, code, payload, hexec, hports, hpayload, fun hrefusal => absurd hcode (Nat.not_lt.2 hrefusal)⟩

end Sys2Proof.Claims
end

section
/-! SUPPORT. The record report (Table 10-10): its five leading bytes bit by bit, when each optional item is sent, and the length
of a report of a record that meets the record law. -/

namespace Sys2Proof.Machine

open Sys2Proof.Safety

/-! ### Fields of a byte (R181) -/

/-- The bits of a number from `start` on are those of its quotient by `2 ^ start`. -/
theorem extractLsb'_ofNat {w start len : Nat} (n : Nat) (hfits : start + len ≤ w) :
    (BitVec.ofNat w n).extractLsb' start len = BitVec.ofNat len (n / 2 ^ start) := by
  refine BitVec.eq_of_getLsbD_eq fun i hi => ?_
  have hw : start + i < w := by omega
  simp only [BitVec.getLsbD_extractLsb', BitVec.getLsbD_ofNat, Nat.testBit_div_two_pow, hi, hw, decide_true, Bool.true_and,
    Nat.add_comm]

theorem testBit_bitsValue (items : List Bool) (k : Nat) : (bitsValue items).testBit k = items.getD k false := by
  induction items generalizing k with
  | nil => simp [bitsValue]
  | cons b items ih =>
    cases k with
    | zero => cases b <;> simp [bitsValue, Nat.testBit_zero]
    | succ k =>
      have hhalf : bitsValue (b :: items) / 2 = bitsValue items := by rw [bitsValue]; split <;> omega
      rw [Nat.testBit_add_one, hhalf, ih, List.getD_cons_succ]

theorem bitsValue_lt (items : List Bool) : bitsValue items < 2 ^ items.length := by
  induction items with
  | nil => decide
  | cons b items ih =>
    rw [bitsValue, List.length_cons, Nat.pow_succ]
    split <;> omega

/-- In a byte whose low bits are the items of a list, each item reads back; what lies above them has no part in it. -/
theorem getLsbD_items (high : Nat) (items : List Bool) {k : Nat} (hk : k < items.length) (hbyte : k < 8) :
    (BitVec.ofNat 8 (2 ^ items.length * high + bitsValue items)).getLsbD k = items.getD k false := by
  rw [BitVec.getLsbD_ofNat, decide_eq_true hbyte, Bool.true_and, Nat.testBit_two_pow_mul_add high (bitsValue_lt items),
    if_pos hk, testBit_bitsValue]

theorem mode_code_lt (mode : Mode) : mode.code < 16 := by cases mode <;> decide

theorem phaseBit_eq (phase : Option Phase) : phaseBit phase = decide (phase = some .high) := by
  rcases phase with _ | _ | _ <;> rfl

theorem outLevelBit_eq (level : Option OutLevel) : outLevelBit level = decide (level = some .active) := by
  rcases level with _ | _ | _ <;> rfl

theorem lineNibble_eq (binding : Option Line) : lineNibble binding = (binding.getD 0).val := by
  cases binding <;> rfl

/-! ### The five leading bytes -/

section Report

variable (now : Time) (h : Handle) (x : Rec) (o : Option Offer)

theorem recordReport_stateByte :
    (recordReport now h x o).getD 2 0 = BitVec.ofNat 8 (x.state.code * 16 + x.mode.code) := rfl

/-- The four flags of the owner byte, from bit 0 up. -/
def ownerFlags : List Bool := [phaseBit x.phase, outLevelBit x.outputLevel, x.unacknowledged, x.share]

/-- The five items of the presence byte, from bit 0 up. -/
def presenceItems : List Bool :=
  [x.staged.isSome, x.outputBinding.isSome, x.triggerBinding.isSome, x.lastFire.isSome, o.isSome]

theorem recordReport_ownerByte :
    (recordReport now h x o).getD 3 0 =
      BitVec.ofNat 8 (2 ^ (ownerFlags x).length * (x.owner.val * 4 + x.priority.val) + bitsValue (ownerFlags x)) := by
  have hsum : x.owner.val * 64 + x.priority.val * 16 + bitsValue (ownerFlags x) =
      2 ^ (ownerFlags x).length * (x.owner.val * 4 + x.priority.val) + bitsValue (ownerFlags x) := by
    change _ = 16 * (x.owner.val * 4 + x.priority.val) + bitsValue (ownerFlags x)
    omega
  exact congrArg (BitVec.ofNat 8) hsum

theorem recordReport_presenceByte :
    (recordReport now h x o).getD 4 0 = BitVec.ofNat 8 (bitsValue (presenceItems x o)) := rfl

theorem recordReport_state :
    ((recordReport now h x o).getD 2 0).extractLsb' 4 4 = BitVec.ofNat 4 x.state.code := by
  have hmode := mode_code_lt x.mode
  have hcode : (x.state.code * 16 + x.mode.code) / 2 ^ 4 = x.state.code := by omega
  rw [recordReport_stateByte, extractLsb'_ofNat _ (by decide), hcode]

theorem recordReport_mode :
    ((recordReport now h x o).getD 2 0).extractLsb' 0 4 = BitVec.ofNat 4 x.mode.code := by
  rw [recordReport_stateByte, extractLsb'_ofNat _ (by decide)]
  apply BitVec.eq_of_toNat_eq
  simp only [BitVec.toNat_ofNat]
  omega

theorem recordReport_owner :
    ((recordReport now h x o).getD 3 0).extractLsb' 6 2 = BitVec.ofNat 2 x.owner.val := by
  have hflags : bitsValue (ownerFlags x) < 16 := bitsValue_lt (ownerFlags x)
  have hpriority := x.priority.isLt
  have howner : (2 ^ (ownerFlags x).length * (x.owner.val * 4 + x.priority.val) + bitsValue (ownerFlags x)) / 2 ^ 6 =
      x.owner.val := by
    change (16 * (x.owner.val * 4 + x.priority.val) + bitsValue (ownerFlags x)) / 64 = x.owner.val
    omega
  rw [recordReport_ownerByte, extractLsb'_ofNat _ (by decide), howner]

theorem recordReport_priority :
    ((recordReport now h x o).getD 3 0).extractLsb' 4 2 = BitVec.ofNat 2 x.priority.val := by
  have hflags : bitsValue (ownerFlags x) < 16 := bitsValue_lt (ownerFlags x)
  have hquotient : (2 ^ (ownerFlags x).length * (x.owner.val * 4 + x.priority.val) + bitsValue (ownerFlags x)) / 2 ^ 4 =
      x.owner.val * 4 + x.priority.val := by
    change (16 * (x.owner.val * 4 + x.priority.val) + bitsValue (ownerFlags x)) / 16 = _
    omega
  rw [recordReport_ownerByte, extractLsb'_ofNat _ (by decide), hquotient]
  apply BitVec.eq_of_toNat_eq
  simp only [BitVec.toNat_ofNat]
  omega

/-- Each flag of the owner byte reads back from its bit. -/
theorem recordReport_ownerFlag {k : Nat} (hk : k < 4) :
    ((recordReport now h x o).getD 3 0).getLsbD k = (ownerFlags x).getD k false := by
  rw [recordReport_ownerByte]
  exact getLsbD_items _ _ hk (by omega)

/-- Each item of the presence byte reads back from its bit. -/
theorem recordReport_presenceItem {k : Nat} (hk : k < 5) :
    ((recordReport now h x o).getD 4 0).getLsbD k = (presenceItems x o).getD k false := by
  rw [recordReport_presenceByte, ← Nat.zero_add (bitsValue _)]
  exact getLsbD_items 0 _ hk (by omega)

theorem recordReport_presencePad : ((recordReport now h x o).getD 4 0).extractLsb' 5 3 = 0 := by
  have hitems : bitsValue (presenceItems x o) < 2 ^ 5 := bitsValue_lt (presenceItems x o)
  rw [recordReport_presenceByte, extractLsb'_ofNat _ (by decide), Nat.div_eq_of_lt hitems]
  rfl

/-! ### The items after them -/

theorem recordReport_drop_five :
    (recordReport now h x o).drop 5 =
      byte3 x.period ++ byte2 x.tag.toNat ++ byte1 x.overrun ++ optBytes byte3 x.staged
        ++ optBytes (timeAndTicks now) x.dueTime ++ optBytes byte3 x.remaining ++ lineByte x
        ++ optBytes timeBytes x.firstFire ++ optBytes timeBytes x.lastFire ++ optBytes (offerItem now) o := rfl

/-- A count in progress is present exactly in a SUSPENDED SINGLE record (Table 1-1). -/
theorem remaining_isSome_iff {x : Rec} (hx : RecordLaw x) :
    x.remaining.isSome = true ↔ x.state = .suspended ∧ x.mode = .single := by
  obtain ⟨_, _, _, _, hremaining, _⟩ := hx
  exact hremaining

/-- The first unacknowledged fire time is present exactly while the record is unacknowledged (Table 1-1). -/
theorem firstFire_isSome_iff {x : Rec} (hx : RecordLaw x) : x.firstFire.isSome = true ↔ x.unacknowledged = true := by
  obtain ⟨_, _, _, _, _, _, _, _, _, hfirst, _⟩ := hx
  rw [hfirst]

/-- An optional item is sent under any condition that is equivalent to its presence. -/
theorem optBytes_eq_ite {α : Type} (f : α → List Byte) {v : Option α} (d : α) {P : Prop} [Decidable P]
    (hsent : v.isSome = true ↔ P) : optBytes f v = if P then f (v.getD d) else [] := by
  cases v with
  | none => exact (if_neg (fun hP => Bool.false_ne_true (hsent.2 hP))).symm
  | some a => exact (if_pos (hsent.1 rfl)).symm

theorem lineByte_eq_ite :
    lineByte x =
      if x.outputBinding.isSome = true ∨ x.triggerBinding.isSome = true then
        byte1 ((x.triggerBinding.getD 0).val * 16 + (x.outputBinding.getD 0).val)
      else [] := by
  simp only [lineByte, Bool.or_eq_true, lineNibble_eq]

/-! ### The length -/

theorem length_byte3 (n : Nat) : (byte3 n).length = 3 := rfl

theorem length_timeBytes (t : Time) : (timeBytes t).length = 4 := rfl

theorem length_timeAndTicks (t : Time) : (timeAndTicks now t).length = 7 := rfl

theorem length_offerItem (q : Offer) : (offerItem now q).length = 4 := rfl

theorem length_optBytes_le {α : Type} {f : α → List Byte} {n : Nat} (hf : ∀ a, (f a).length = n) (v : Option α) :
    (optBytes f v).length ≤ n := by
  cases v with
  | none => exact Nat.zero_le n
  | some a => exact (hf a).le

theorem length_lineByte_le : (lineByte x).length ≤ 1 := by
  unfold lineByte
  split
  · exact Nat.le_refl 1
  · exact Nat.zero_le 1

/-- The due time and the remaining count never stand together (R183). -/
theorem length_dueTime_remaining_le {x : Rec} (hx : RecordLaw x) :
    (optBytes (timeAndTicks now) x.dueTime).length + (optBytes byte3 x.remaining).length ≤ 7 := by
  by_cases harmed : x.state = .armed
  · have hremaining : x.remaining = none := remaining_eq_none hx fun ⟨hsuspended, _⟩ => by
      rw [harmed] at hsuspended
      cases hsuspended
    rw [hremaining]
    exact length_optBytes_le (length_timeAndTicks now) x.dueTime
  · rw [dueTime_eq_none hx harmed]
    have hcount := length_optBytes_le length_byte3 x.remaining
    rw [optBytes, List.length_nil, Nat.zero_add]
    exact hcount.trans (by decide)

theorem length_recordReport :
    (recordReport now h x o).length =
      11 + (optBytes byte3 x.staged).length
        + ((optBytes (timeAndTicks now) x.dueTime).length + (optBytes byte3 x.remaining).length)
        + (lineByte x).length + (optBytes timeBytes x.firstFire).length + (optBytes timeBytes x.lastFire).length
        + (optBytes (offerItem now) o).length := by
  simp only [recordReport, ownerByte, reportPresence, presence, byte1, byte2, byte3, List.length_append, List.length_cons,
    List.length_nil]
  omega

theorem length_recordReport_le {x : Rec} (hx : RecordLaw x) : (recordReport now h x o).length ≤ 34 := by
  have hstaged := length_optBytes_le length_byte3 x.staged
  have hdue := length_dueTime_remaining_le now hx
  have hline := length_lineByte_le x
  have hfirst := length_optBytes_le length_timeBytes x.firstFire
  have hlast := length_optBytes_le length_timeBytes x.lastFire
  have hoffer := length_optBytes_le (length_offerItem now) o
  rw [length_recordReport]
  omega

end Report

end Sys2Proof.Machine
end

section
/-! CERTIFICATE. The statements about the request reference (10_request_reference.md). -/

namespace Sys2Proof.Claims

open Sys2Proof.Machine Sys2Proof.Safety

/-- Settles O26: the leading bytes read back field by field. By the record law each optional item is present exactly under the
condition Table 10-10 sends it on, and of the due time and the remaining count at most one is. -/
theorem recordReportLayout : Obligations.RecordReportLayout := by
  intro now h x o hx
  have hflag {k : Nat} (hk : k < 4) := recordReport_ownerFlag now h x o hk
  have hitem {k : Nat} (hk : k < 5) := recordReport_presenceItem now h x o hk
  refine ⟨?_, length_recordReport_le now h o hx, rfl, recordReport_state now h x o, recordReport_mode now h x o,
    recordReport_owner now h x o, recordReport_priority now h x o, hflag (by decide), hflag (by decide),
    (hflag (by decide)).trans (outLevelBit_eq _), (hflag (by decide)).trans (phaseBit_eq _), hitem (by decide),
    hitem (by decide), hitem (by decide), hitem (by decide), hitem (by decide), recordReport_presencePad now h x o, ?_⟩
  · rw [length_recordReport]
    omega
  · rw [recordReport_drop_five, optBytes_eq_ite byte3 0 Iff.rfl, optBytes_eq_ite (timeAndTicks now) 0 (dueTime_isSome_iff hx),
      optBytes_eq_ite byte3 0 (remaining_isSome_iff hx), lineByte_eq_ite,
      optBytes_eq_ite timeBytes 0 (firstFire_isSome_iff hx), optBytes_eq_ite timeBytes 0 Iff.rfl]
    cases o <;> rfl

end Sys2Proof.Claims
end


section
/-! SUPPORT. The standing of a record: the fields that no mode rule writes. An event that leaves the standing of every record, and
the blocks around the records, is quiet. -/

namespace Sys2Proof.Machine

/-! ### The standing of a record -/

/-- The fields of a record that no mode rule writes: a firing, an acknowledgement, a RELABEL and the offer unit write them. -/
structure Standing where
  mode : Mode
  owner : Client
  priority : Fin 4
  offered : Bool
  unacknowledged : Bool
  firstFire : Option Time
  overrun : Nat
  lastFire : Option Time

/-- The standing of a record. -/
def Rec.standing (r : Rec) : Standing :=
  { mode := r.mode, owner := r.owner, priority := r.priority, offered := r.offered, unacknowledged := r.unacknowledged,
    firstFire := r.firstFire, overrun := r.overrun, lastFire := r.lastFire }

@[simp] theorem standing_setLevel (r : Rec) (l : OutLevel) : (setLevel r l).standing = r.standing := by
  unfold setLevel; split <;> rfl
@[simp] theorem standing_toggleLevel (r : Rec) : (toggleLevel r).standing = r.standing := by
  obtain h | ⟨l, h⟩ := toggleLevel_cases r <;> simp [h]
@[simp] theorem standing_takeStaged (r : Rec) : (takeStaged r).standing = r.standing := by
  unfold takeStaged; split <;> rfl
@[simp] theorem standing_armedAt (r : Rec) (due : Time) : (armedAt r due).standing = r.standing := rfl
@[simp] theorem standing_untimed (r : Rec) (state : RecState) : (untimed r state).standing = r.standing := rfl
@[simp] theorem standing_startHigh (r : Rec) (origin : Time) : (startHigh r origin).standing = r.standing :=
  standing_setLevel _ _
@[simp] theorem standing_startLow (r : Rec) (origin : Time) : (startLow r origin).standing = r.standing :=
  standing_setLevel _ _

/-- An expiry writes no field of the standing but through its firing (R62). -/
theorem standing_expireRecord (now : Time) (r : Rec) : (expireRecord now r).record.standing = r.standing := by
  unfold expireRecord
  cases r.mode with
  | single | watch | delayed | cyclic => simp
  | square =>
    cases r.phase with
    | none => simp
    | some phase => cases phase <;> simp

/-! ### Effects that do not fire -/

/-- An effect that leaves the standing of the record `r` and is no firing. -/
def Effect.Silent (e : Effect) (r : Rec) : Prop := e.fires = false ∧ e.record.standing = r.standing

theorem silent_timed {r y : Rec} (h : y.standing = r.standing) : (timed y false).Silent r := ⟨rfl, h⟩

theorem silent_armRecord (now : Time) (active : Bool) (r : Rec) : (armRecord now active r).Silent r := by
  unfold armRecord
  cases r.mode with
  | single =>
    cases active with
    | true => exact silent_timed (by simp)
    | false => exact ⟨rfl, standing_setLevel r .inactive⟩
  | cyclic | square =>
    cases active with
    | true => exact silent_timed (by simp)
    | false => exact ⟨rfl, by simp⟩
  | delayed => exact ⟨rfl, by simp⟩
  | watch => exact silent_timed (by simp)

theorem silent_armEffect (s : State) (x : Rec) : (armEffect s x).Silent x := by
  obtain ⟨hfires, hstanding⟩ := silent_armRecord s.tableTime (gateActive s x) (takeStaged x)
  exact ⟨hfires, hstanding.trans (standing_takeStaged x)⟩

theorem silent_disarmRecord (r : Rec) : (disarmRecord r).Silent r := ⟨rfl, standing_setLevel _ _⟩

theorem silent_reviseRecord (now : Time) (r : Rec) (p : Nat) : (reviseRecord now r p).Silent r := by
  unfold reviseRecord
  split
  · unfold replacePeriod
    split <;> exact ⟨rfl, rfl⟩
  · exact ⟨rfl, rfl⟩

/-- No trigger event is a firing (R62, R104). -/
theorem silent_eventRule {assert : Bool} {now : Time} {r : Rec} {e : Effect} (he : eventRule assert now r = some e) :
    e.Silent r := by
  cases assert with
  | true =>
    simp only [eventRule, if_true, assertRecord] at he
    split at he <;> cases he <;> exact silent_timed (by simp)
  | false =>
    simp only [eventRule, Bool.false_eq_true, if_false, deassertRecord] at he
    split at he <;> cases he
    · exact ⟨rfl, rfl⟩
    · exact ⟨rfl, by simp⟩
    · exact ⟨rfl, by simp⟩

/-! ### What a change keeps of every record -/

/-- What a slot shows through `f`: its generation and, if it is not FREE, the part `f` of its record. -/
def viewAt {α : Type} (f : Rec → α) (s : State) (i : SlotId) : BitVec 5 × Option α :=
  ((s.slots.get i).generation, (recordAt s i).map f)

/-- Every slot shows through `f` what it showed before. -/
def Kept {α : Type} (f : Rec → α) (s t : State) : Prop := ∀ i, viewAt f t i = viewAt f s i

section Kept

variable {α β : Type} {f : Rec → α} {s t u : State}

theorem Kept.of_slots (h : t.slots = s.slots) : Kept f s t := fun i => by
  rw [viewAt, viewAt, recordAt, recordAt, h]

theorem Kept.refl (s : State) : Kept f s s := fun _ => rfl

theorem Kept.trans (hst : Kept f s t) (htu : Kept f t u) : Kept f s u := fun i => (htu i).trans (hst i)

theorem Kept.generation (h : Kept f s t) (i : SlotId) : (t.slots.get i).generation = (s.slots.get i).generation :=
  congrArg Prod.fst (h i)

theorem Kept.map_eq (h : Kept f s t) (i : SlotId) : (recordAt t i).map f = (recordAt s i).map f :=
  congrArg Prod.snd (h i)

/-- What can be worked out from the part kept is kept. -/
theorem Kept.comp (h : Kept f s t) (g : α → β) : Kept (fun r => g (f r)) s t := fun i => by
  have hview : ∀ v : State, viewAt (fun r => g (f r)) v i = (viewAt f v i).map id (Option.map g) := fun v => by
    simp [viewAt, Function.comp_def]
  rw [hview, hview, h i]

theorem Kept.recordAt_eq_none (h : Kept f s t) (i : SlotId) : recordAt t i = none ↔ recordAt s i = none := by
  rw [← Option.map_eq_none_iff (f := f), h.map_eq, Option.map_eq_none_iff]

/-- A slot live before and after has the same part. -/
theorem Kept.eq_of_live (h : Kept f s t) {i : SlotId} {x y : Rec} (hx : recordAt s i = some x)
    (hy : recordAt t i = some y) : f y = f x := by
  have hmap := h.map_eq i
  rw [hx, hy] at hmap
  exact Option.some.inj hmap

theorem viewAt_putRecord (f : Rec → α) (s : State) (i j : SlotId) (y : Rec) :
    viewAt f (putRecord s i y) j = if j = i then ((s.slots.get i).generation, some (f y)) else viewAt f s j := by
  rw [viewAt, recordAt_putRecord, putRecord_slots, Table.get_set]
  split <;> rfl

/-- A record rewritten with its part `f` as it was. -/
theorem Kept.putRecord {i : SlotId} {x y : Rec} (hx : recordAt s i = some x) (hy : f y = f x) :
    Kept f s (putRecord s i y) := fun j => by
  rw [viewAt_putRecord]
  split
  · next hj => rw [hj, viewAt, hx, hy]; rfl
  · rfl

end Kept

/-! ### Quiet events -/

/-- The state differs from `s` in the timing and the labels of its records, in the schedule and in the lines alone. -/
structure Quiet (s t : State) : Prop where
  held : Kept Rec.standing s t
  freeList : t.freeList = s.freeList := by simp
  owned : t.owned = s.owned := by simp
  timeBase : t.timeBase = s.timeBase := by simp
  tableTime : t.tableTime = s.tableTime := by simp
  attn : t.attn = s.attn := by simp
  offers : t.offers = s.offers := by simp
  ports : t.ports = s.ports := by simp
  executor : t.executor = s.executor := by simp
  control : t.control = s.control := by simp
  quota : t.quota = s.quota := by simp
  purging : t.purging = s.purging := by simp
  purgeQueue : t.purgeQueue = s.purgeQueue := by simp
  cursor : t.cursor = s.cursor := by simp

theorem Quiet.refl (s : State) : Quiet s s := { held := .refl s }

theorem Quiet.trans {s t u : State} (hst : Quiet s t) (htu : Quiet t u) : Quiet s u where
  held := hst.held.trans htu.held
  freeList := htu.freeList.trans hst.freeList
  owned := htu.owned.trans hst.owned
  timeBase := htu.timeBase.trans hst.timeBase
  tableTime := htu.tableTime.trans hst.tableTime
  attn := htu.attn.trans hst.attn
  offers := htu.offers.trans hst.offers
  ports := htu.ports.trans hst.ports
  executor := htu.executor.trans hst.executor
  control := htu.control.trans hst.control
  quota := htu.quota.trans hst.quota
  purging := htu.purging.trans hst.purging
  purgeQueue := htu.purgeQueue.trans hst.purgeQueue
  cursor := htu.cursor.trans hst.cursor

/-- A record rewritten with its standing as it was. -/
theorem Quiet.putRecord {s : State} {i : SlotId} {x y : Rec} (hx : recordAt s i = some x)
    (hy : y.standing = x.standing) : Quiet s (putRecord s i y) where
  held := .putRecord hx hy

theorem Quiet.driveBinding (s : State) (b : Option Line) : Quiet s (driveBinding s b) where
  held := .of_slots (driveBinding_slots s b)

theorem Quiet.reschedule (s : State) (i : SlotId) (op : SchedOp) : Quiet s (reschedule s i op) where
  held := .of_slots (reschedule_slots s i op)

theorem Quiet.putTrg (s : State) (k : Line) (l : TrgLine) : Quiet s (putTrg s k l) where
  held := .of_slots rfl

theorem Quiet.putEvt (s : State) (k : Line) (l : EvtLine) : Quiet s (putEvt s k l) where
  held := .of_slots rfl

/-- An event decided by a mode that does not fire. -/
theorem Quiet.applyEffect {s : State} {i : SlotId} {x : Rec} (hx : recordAt s i = some x) {e : Effect}
    (he : e.Silent x) : Quiet s (applyEffect s i e) := by
  obtain ⟨hfires, hstanding⟩ := he
  simp only [Machine.applyEffect, hfires, Bool.false_eq_true, if_false]
  exact ((Quiet.putRecord hx hstanding).trans (.driveBinding _ _)).trans (.reschedule _ _ _)

theorem Quiet.deliver (assert : Bool) (s : State) (i : SlotId) : Quiet s (deliver assert s i) := by
  unfold Machine.deliver
  split
  · exact .refl s
  · next r hr =>
    split
    · exact .refl s
    · next e he => exact .applyEffect hr (silent_eventRule he)

theorem Quiet.deliverAll (assert : Bool) (s : State) (l : List SlotId) : Quiet s (deliverAll assert s l) := by
  induction l generalizing s with
  | nil => exact .refl s
  | cons i rest ih => exact (Quiet.deliver assert s i).trans (ih _)

/-! ### Bindings (R107, R111, R112) -/

theorem Quiet.releaseBinding (s : State) (b : Option Line) : Quiet s (releaseBinding s b) := by
  cases b with
  | none => exact .refl s
  | some k => exact .putEvt s k _

theorem Quiet.unlistenBinding (s : State) (i : SlotId) (b : Option Line) : Quiet s (unlistenBinding s i b) := by
  cases b with
  | none => exact .refl s
  | some k => exact .putTrg s k _

theorem Quiet.bindOutputRecord {s : State} {i : SlotId} {x : Rec} (hx : recordAt s i = some x) (k : Line) :
    Quiet s (bindOutputRecord s i x k) := by
  unfold Machine.bindOutputRecord
  split
  · exact .refl s
  · have hreleased : recordAt (Machine.releaseBinding s x.outputBinding) i = some x :=
      (recordAt_eq_of_slots (releaseBinding_slots s _) i).trans hx
    have hwritten := (Quiet.releaseBinding s x.outputBinding).trans <|
      .putRecord hreleased (y := { x with outputBinding := some k, outputLevel := some .inactive }) rfl
    exact (hwritten.trans (.putEvt _ k _)).trans (.putEvt _ k _)

theorem Quiet.bindTriggerRecord {s : State} {i : SlotId} {x : Rec} (hx : recordAt s i = some x) (k : Line) :
    Quiet s (bindTriggerRecord s i x k) := by
  unfold Machine.bindTriggerRecord
  split
  · exact .refl s
  · have hunlistened : recordAt (Machine.unlistenBinding s i x.triggerBinding) i = some x :=
      (recordAt_eq_of_slots (unlistenBinding_slots s i _) i).trans hx
    have hwritten := (Quiet.unlistenBinding s i x.triggerBinding).trans <|
      .putRecord hunlistened (y := { x with triggerBinding := some k }) rfl
    exact hwritten.trans (.putTrg _ k _)

theorem Quiet.unbindRecord {s : State} {i : SlotId} {x : Rec} (hx : recordAt s i = some x) (kind : BindingKind) :
    Quiet s (unbindRecord s i x kind) := by
  cases kind with
  | output =>
    simp only [Machine.unbindRecord, unbindOutput]
    split
    · exact .refl s
    · exact (Quiet.putRecord hx (y := { x with outputBinding := none, outputLevel := none }) rfl).trans (.putEvt _ _ _)
  | trigger =>
    simp only [Machine.unbindRecord, unbindTrigger]
    split
    · exact .refl s
    · exact (Quiet.putRecord hx (y := { x with triggerBinding := none }) rfl).trans (.putTrg _ _ _)

end Sys2Proof.Machine
end

section
/-! SUPPORT. What a command can make of the state: one change for each thing the part can do, and the lemma that every command
makes one of them, or takes a request whose rule makes one and posts the response. -/

namespace Sys2Proof.Machine

open Sys2Proof.Claims

/-! ### Changes -/

/-- What the time requests, HOLDIN and the REFCLK edges make of the time base (R25, R26, R31 to R34, R38). -/
inductive TimeBaseMove (b : TimeBase) : TimeBase → Prop
  | hold (requested line : Bool) {owed : Nat} (howed : owed = 0 ∨ owed = b.owed) :
    TimeBaseMove b { b with requestHold := requested, lineHold := line, owed := owed }
  | policy (p : Policy) : TimeBaseMove b { b with policy := p }
  | stop : TimeBaseMove b (stopTime b)
  | edge (hrun : b.stopped = false) (hphase : b.phase + 1 < b.prescaler) :
    TimeBaseMove b { b with phase := b.phase + 1 }
  | count (hrun : b.stopped = false) : TimeBaseMove b (countAdvance b)

/-- What the edges of SELn, the FETCH code and a deassertion of PRSTn make of port `p` (R152 to R159, R166). -/
inductive PortMove (s : State) (p : Client) : Port → Prop
  | falls (hidle : (s.ports.get p).transfer = none) :
    PortMove s p { s.ports.get p with transfer := some (freshTransfer s p) }
  | chooses (hheard : (currentTransfer s p).ignored = false) (choice : Option (List Byte)) :
    PortMove s p { s.ports.get p with transfer := some { currentTransfer s p with chosen := some choice } }
  | ends (n : Nat) (tail : List Byte) : PortMove s p (closed (s.ports.get p) (currentTransfer s p) n tail)
  | submits (hheard : (currentTransfer s p).ignored = false) (n : Nat) (mosi : List Byte) :
    PortMove s p (closed (judgeSubmit s p mosi) (currentTransfer s p) n [])
  | fetches (chosen : Option (List Byte)) (n : Nat) :
    PortMove s p (closed (fetchedQueue (s.ports.get p) chosen n) (currentTransfer s p) n (fetchTail chosen))
  | released : PortMove s p { s.ports.get p with state := .ready, assertTaken := false }

/-- The offer that an OFFER may open on the record `x` in slot `i` (R138, R139). -/
structure Opens (s : State) (i : SlotId) (x : Rec) (o : Offer) : Prop where
  record : o.record = i
  giver : o.giver = x.owner
  receiver : o.receiver ≠ o.giver
  unoffered : x.offered = false
  giverNormal : s.purging.get o.giver = false
  receiverNormal : s.purging.get o.receiver = false
  room : s.offers.length < Config.offerLimit
  lapse : 1 ≤ ahead s.tableTime o.lapse ∧ ahead s.tableTime o.lapse ≤ Config.maxTicks

/-- What a command can make of the records, their attention entries and their offers. -/
inductive RecordChange (s : State) : Instr → State → Prop
  | quiet {c : Instr} {t : State} (h : Quiet s t) : RecordChange s c t
  | create {i : SlotId} {rest : List SlotId} (hfree : s.freeList = i :: rest) (owner : Client) (mode : Mode)
      (period : Nat) (priority : Fin 4) (tag : BitVec 16) (share : Bool) :
    RecordChange s .create
      (putOwned (putRecord { s with freeList := rest } i (newRecord owner mode period priority tag share)) owner
        (s.owned.get owner + 1))
  | retire {i : SlotId} {x : Rec} (hx : recordAt s i = some x) : RecordChange s .retire (retireRecord s i x)
  | relabel {i : SlotId} {x : Rec} (hx : recordAt s i = some x) (tag : BitVec 16) (priority : Fin 4) (share : Bool) :
    RecordChange s .relabel (relabelRecord s i x tag priority share)
  | take {c : Instr} (d : Client) {l : List SlotId} (hl : l.Sublist (s.attn.get d).set) :
    RecordChange s c (refreshAttn (takeEntries s d l) d)
  | mask {c : Instr} (d : Client) {n : Nat} (hn : n ≤ 4) :
    RecordChange s c (refreshAttn (putAttn s d { s.attn.get d with mask := n }) d)
  | offer {i : SlotId} {x : Rec} (hx : recordAt s i = some x) {o : Offer} (ho : Opens s i x o) :
    RecordChange s .offer (openOffer s i x o)
  | accept {i : SlotId} {x : Rec} (hx : recordAt s i = some x) {o : Offer} (ho : offerOf s i = some o) :
    RecordChange s .accept (acceptRecord s i x o.receiver)
  | endOffer {c : Instr} {o : Offer} (ho : o ∈ s.offers) : RecordChange s c (endOffer s o)
  | expiry (i : SlotId) : RecordChange s .expiry (expireAt s i)

/-- Everything that a command can make of the part, but for the posting of a response. -/
inductive Change (s : State) : Instr → State → Prop
  | records {c : Instr} {t : State} (h : RecordChange s c t) : Change s c t
  | startTime (hstopped : s.timeBase.stopped = true) (new : Time) {n : Nat} (hpos : 1 ≤ n) (hmax : n ≤ Config.maxPrescaler) :
    Change s .startTime (startTime s new n)
  | timeBase {c : Instr} {b : TimeBase} (hb : TimeBaseMove s.timeBase b) : Change s c { s with timeBase := b }
  | quota {c : Instr} (d : Client) {n : Nat} (hn : quotaSum (s.quota.set d n) ≤ Config.tableSize) :
    Change s c { s with quota := s.quota.set d n }
  | control {c : Instr} (d : Client) {b : Bool} (hb : d = 0 → b = true) :
    Change s c { s with control := s.control.set d b }
  | mark {c : Instr} (d : Client) (hd : s.purging.get d = false) : Change s c (markClient s d)
  | link {c : Instr} {p : Client} {q : Port} (hq : PortMove s p q) (draws : Nat) :
    Change s c { putPort s p q with freeDraws := draws }
  | select {p : Client} {body : List Byte} {rest : List (List Byte)} (hidle : s.executor = none)
      (hq : (s.ports.get p).inbound = body :: rest) :
    Change s .selection
      { putPort s p { s.ports.get p with inbound := rest } with
        executor := some { port := p, body := body, discard := false }, lastServed := p }
  | portReset (p : Client) : Change s (.portReset p) (assertPortReset s p)
  | portResetMarking (p : Client) (hp : s.purging.get p = false) :
    Change s (.portReset p) (markClient (assertPortReset s p) p)
  | advance (hdue : advanceDue s = true) : Change s .advance (expireAll (tick s) (dueNow (tick s)))
  | purge {c : Instr} {d : Client} {rest : List Client} (hqueue : s.purgeQueue = d :: rest) (i : SlotId) :
    Change s c (moveCursor (examineSlot s d i) d i)
  | reset (pins : Pins) :
    Change s (.reset pins) { State.afterReset pins with freeDraws := s.freeDraws, pending := s.pending }

theorem Change.quiet {s t : State} {c : Instr} (h : Quiet s t) : Change s c t := .records (.quiet h)

theorem Change.idle (s : State) (c : Instr) : Change s c s := .quiet (.refl s)

/-! ### The rules of the requests -/

theorem createAnswer_change (s : State) (r : Serving) : (createAnswer s r).Leaves (Change s .create) := by
  unfold createAnswer
  split
  · split
    · exact leaves_refuse _ _
    · unfold createRecord
      split
      · exact leaves_refuse _ _
      · split
        · exact leaves_refuse _ _
        · next hfree => exact .records (.create hfree r.port _ _ _ _ _)
  · exact leaves_refuse _ _

theorem retireAnswer_change (s : State) (r : Serving) : (retireAnswer s r).Leaves (Change s .retire) :=
  leaves_withOwned fun _ hx _ => .records (.retire (recordAt_of_liveRecord hx))

theorem armAnswer_change (s : State) (r : Serving) : (armAnswer s r).Leaves (Change s .arm) := by
  refine leaves_withOwned fun x hx _ => ?_
  split_ifs
  · exact leaves_refuse _ _
  · exact leaves_refuse _ _
  · exact .quiet (.applyEffect (recordAt_of_liveRecord hx) (silent_armEffect s x))

theorem disarmAnswer_change (s : State) (r : Serving) : (disarmAnswer s r).Leaves (Change s .disarm) := by
  refine leaves_withOwned fun x hx _ => ?_
  split
  · exact leaves_refuse _ _
  · exact .quiet (.applyEffect (recordAt_of_liveRecord hx) (silent_disarmRecord x))

theorem reviseAnswer_change (s : State) (r : Serving) : (reviseAnswer s r).Leaves (Change s .revise) := by
  unfold reviseAnswer
  split
  · exact leaves_refuse _ _
  · exact leaves_withOwned fun x hx _ =>
      .quiet (.applyEffect (recordAt_of_liveRecord hx) (silent_reviseRecord s.tableTime x _))

theorem relabelAnswer_change (s : State) (r : Serving) : (relabelAnswer s r).Leaves (Change s .relabel) := by
  unfold relabelAnswer
  split
  · exact leaves_withOwned fun _ hx _ => .records (.relabel (recordAt_of_liveRecord hx) _ _ _)
  · exact leaves_refuse _ _

theorem queryAnswer_change (s : State) (r : Serving) : (queryAnswer s r).Leaves (Change s .query) := by
  unfold queryAnswer
  split
  · exact .idle s _
  · exact leaves_refuse _ _

theorem querySetAnswer_change (s : State) (r : Serving) : (querySetAnswer s r).Leaves (Change s .querySet) := by
  unfold querySetAnswer
  split
  · exact leaves_refuse _ _
  · exact .idle s _

theorem bindOutputAnswer_change (s : State) (r : Serving) : (bindOutputAnswer s r).Leaves (Change s .bindOutput) := by
  unfold bindOutputAnswer
  split
  · exact leaves_refuse _ _
  · refine leaves_withIdle fun x hx _ _ => ?_
    split
    · exact leaves_refuse _ _
    · exact .quiet (.bindOutputRecord (recordAt_of_liveRecord hx) _)

theorem bindTriggerAnswer_change (s : State) (r : Serving) :
    (bindTriggerAnswer s r).Leaves (Change s .bindTrigger) := by
  unfold bindTriggerAnswer
  split
  · exact leaves_refuse _ _
  · exact leaves_withIdle fun x hx _ _ => .quiet (.bindTriggerRecord (recordAt_of_liveRecord hx) _)

theorem unbindAnswer_change (s : State) (r : Serving) : (unbindAnswer s r).Leaves (Change s .unbind) := by
  unfold unbindAnswer
  split
  · exact leaves_refuse _ _
  · exact leaves_withIdle fun x hx _ _ => .quiet (.unbindRecord (recordAt_of_liveRecord hx) _)

theorem collectAnswer_change (s : State) (r : Serving) : (collectAnswer s r).Leaves (Change s .collect) := by
  unfold collectAnswer
  split
  · exact leaves_refuse _ _
  · exact .records (.take r.port (List.take_sublist _ _))

theorem acknowledgeAnswer_change (s : State) (r : Serving) :
    (acknowledgeAnswer s r).Leaves (Change s .acknowledge) := by
  refine leaves_withOwned fun x _ _ => ?_
  split
  · next hin => exact .records (.take r.port (List.singleton_sublist.2 hin))
  · exact .idle s _

theorem setMaskAnswer_change (s : State) (r : Serving) : (setMaskAnswer s r).Leaves (Change s .setMask) := by
  unfold setMaskAnswer
  split
  · exact leaves_refuse _ _
  · next hn => exact .records (.mask r.port (Nat.not_lt.1 hn))

/-- The requester is NORMAL, since OFFER passes no step 4 of a PURGING client (R172). -/
theorem offerAnswer_change {s : State} {r : Serving} (hnormal : s.purging.get r.port = false) :
    (offerAnswer s r).Leaves (Change s .offer) := by
  unfold offerAnswer
  split
  · exact leaves_refuse _ _
  · next receiver _ =>
    split
    · exact leaves_refuse _ _
    · next hrange =>
      rw [not_or] at hrange
      obtain ⟨hother, hzero⟩ := hrange
      refine leaves_withOwned fun x hx howner => ?_
      unfold offerRecord
      split_ifs with hoffered hpurging hfull
      · exact leaves_refuse _ _
      · exact leaves_refuse _ _
      · exact leaves_refuse _ _
      · refine .records <| .offer (recordAt_of_liveRecord hx)
          { record := rfl, giver := howner.symm, receiver := hother, unoffered := Bool.eq_false_iff.2 hoffered,
            giverNormal := hnormal, receiverNormal := Bool.eq_false_iff.2 hpurging, room := Nat.not_le.1 hfull,
            lapse := ?_ }
        have hticks : TicksInRange (arg3 r.body 5) := ⟨Nat.pos_of_ne_zero hzero, arg3_le _ _⟩
        rw [newOffer, ahead_after_of_inRange _ hticks]
        exact hticks

theorem acceptAnswer_change (s : State) (r : Serving) : (acceptAnswer s r).Leaves (Change s .accept) := by
  refine leaves_withIncoming fun x o hx ho hreceiver => ?_
  split
  · exact leaves_refuse _ _
  · rw [← hreceiver]
    exact .records (.accept (recordAt_of_liveRecord hx) ho)

theorem declineAnswer_change (s : State) (r : Serving) : (declineAnswer s r).Leaves (Change s .decline) :=
  leaves_withIncoming fun _ _ _ ho _ => .records (.endOffer (offerOf_some ho).1)

theorem withdrawAnswer_change (s : State) (r : Serving) : (withdrawAnswer s r).Leaves (Change s .withdraw) := by
  refine leaves_withOwned fun _ _ _ => ?_
  split
  · exact leaves_refuse _ _
  · next ho => exact .records (.endOffer (offerOf_some ho).1)

theorem startTimeAnswer_change (s : State) (r : Serving) : (startTimeAnswer s r).Leaves (Change s .startTime) := by
  unfold startTimeAnswer
  split_ifs with hrange hstate
  · exact leaves_refuse _ _
  · exact leaves_refuse _ _
  · rw [not_or] at hrange
    obtain ⟨hzero, hmax⟩ := hrange
    exact .startTime (tbState_eq_stopped.1 (not_not.1 hstate)) _ (Nat.pos_of_ne_zero hzero) (Nat.not_lt.1 hmax)

theorem stopTimeAnswer_change (s : State) (r : Serving) : (stopTimeAnswer s r).Leaves (Change s .stopTime) := by
  unfold stopTimeAnswer
  split
  · exact leaves_refuse _ _
  · exact .timeBase .stop

/-- Clearing the request hold keeps or discards the owed advances (R33). -/
theorem releaseTimeAnswer_change (s : State) (r : Serving) :
    (releaseTimeAnswer s r).Leaves (Change s .releaseTime) := by
  rw [releaseTimeAnswer_eq, release_requestHold]
  exact .timeBase (.hold false s.timeBase.lineHold (ite_eq_or_eq _ _ _))

theorem setReleasePolicyAnswer_change (s : State) (r : Serving) :
    (setReleasePolicyAnswer s r).Leaves (Change s .setReleasePolicy) := by
  unfold setReleasePolicyAnswer
  split
  · exact leaves_refuse _ _
  · exact .timeBase (.policy _)

theorem configureTriggerAnswer_change (s : State) (r : Serving) :
    (configureTriggerAnswer s r).Leaves (Change s .configureTrigger) := by
  unfold configureTriggerAnswer
  split
  · split
    · exact leaves_refuse _ _
    · exact .quiet (.putTrg s _ _)
  · exact leaves_refuse _ _

theorem configureOutputAnswer_change (s : State) (r : Serving) :
    (configureOutputAnswer s r).Leaves (Change s .configureOutput) := by
  unfold configureOutputAnswer
  split
  · split
    · exact leaves_refuse _ _
    · exact .quiet (.putEvt s _ _)
  · exact leaves_refuse _ _

theorem setQuotaAnswer_change (s : State) (r : Serving) : (setQuotaAnswer s r).Leaves (Change s .setQuota) := by
  unfold setQuotaAnswer
  split
  · exact leaves_refuse _ _
  · split_ifs with _ hsum
    · exact leaves_refuse _ _
    · exact leaves_refuse _ _
    · exact .quota _ (Nat.not_lt.1 hsum)

theorem grantControlAnswer_change (s : State) (r : Serving) :
    (grantControlAnswer s r).Leaves (Change s .grantControl) := by
  unfold grantControlAnswer
  split
  · exact leaves_refuse _ _
  · exact .control _ fun _ => rfl

theorem revokeControlAnswer_change (s : State) (r : Serving) :
    (revokeControlAnswer s r).Leaves (Change s .revokeControl) := by
  unfold revokeControlAnswer
  split
  · exact leaves_refuse _ _
  · split
    · exact leaves_refuse _ _
    · next hzero => exact .control _ fun h => absurd h hzero

theorem purgeClientAnswer_change (s : State) (r : Serving) :
    (purgeClientAnswer s r).Leaves (Change s .purgeClient) := by
  unfold purgeClientAnswer
  split
  · exact leaves_refuse _ _
  · split
    · exact leaves_refuse _ _
    · next hpurging => exact .mark _ (Bool.eq_false_iff.2 hpurging)

/-- The rule of every kind of request that passes the general checks makes one change. -/
theorem ruleOf_change {s : State} {k : Kind} {r : Serving} (hg : generalCheck s k r = none) :
    (ruleOf k s r).Leaves (Change s (instrOf k)) := by
  cases k with
  | create => exact createAnswer_change s r
  | retire => exact retireAnswer_change s r
  | arm => exact armAnswer_change s r
  | disarm => exact disarmAnswer_change s r
  | revise => exact reviseAnswer_change s r
  | relabel => exact relabelAnswer_change s r
  | query => exact queryAnswer_change s r
  | querySet => exact querySetAnswer_change s r
  | bindOutput => exact bindOutputAnswer_change s r
  | bindTrigger => exact bindTriggerAnswer_change s r
  | unbind => exact unbindAnswer_change s r
  | collect => exact collectAnswer_change s r
  | acknowledge => exact acknowledgeAnswer_change s r
  | setMask => exact setMaskAnswer_change s r
  | offer =>
    refine offerAnswer_change (Bool.eq_false_iff.2 fun hpurging => ?_)
    have hexempt : Kind.purgeExempt .offer = false := rfl
    unfold generalCheck at hg
    split_ifs at hg with _ _ hstep
    exact hstep ⟨hpurging, hexempt⟩
  | accept => exact acceptAnswer_change s r
  | decline => exact declineAnswer_change s r
  | withdraw => exact withdrawAnswer_change s r
  | listOffers | readTime | deviceStatus => exact .idle s _
  | startTime => exact startTimeAnswer_change s r
  | stopTime => exact stopTimeAnswer_change s r
  | holdTime => exact .timeBase (.hold true s.timeBase.lineHold (.inr rfl))
  | releaseTime => exact releaseTimeAnswer_change s r
  | setReleasePolicy => exact setReleasePolicyAnswer_change s r
  | configureTrigger => exact configureTriggerAnswer_change s r
  | configureOutput => exact configureOutputAnswer_change s r
  | setQuota => exact setQuotaAnswer_change s r
  | grantControl => exact grantControlAnswer_change s r
  | revokeControl => exact revokeControlAnswer_change s r
  | purgeClient => exact purgeClientAnswer_change s r

/-! ### The events at the ports -/

/-- A transfer command with no free byte drawn. -/
theorem Change.linked {s : State} {c : Instr} {p : Client} {q : Port} (hq : PortMove s p q) :
    Change s c (putPort s p q) := .link hq s.freeDraws

theorem selFalls_change (c : Instr) (s : State) (p : Client) : Change s c (selFalls s p) := by
  unfold selFalls
  split
  · next hidle => exact .linked (.falls hidle)
  · exact .idle s c

theorem submitRises_change (c : Instr) (s : State) (p : Client) (mosi : List Byte) :
    Change s c (submitRises s p mosi) := by
  unfold submitRises
  dsimp only
  split_ifs with hignored
  · exact .linked (.ends _ _)
  · exact .idle s c
  · exact .linked (.submits (Bool.eq_false_iff.2 hignored) _ _)

theorem fetchRises_change (c : Instr) (s : State) (p : Client) (mosi : List Byte) :
    Change s c (fetchRises s p mosi) := by
  unfold fetchRises
  dsimp only
  split_ifs
  · exact .linked (.ends _ _)
  · exact .idle s c
  · exact .linked (.fetches _ _)

theorem ignoredRises_change (c : Instr) (s : State) (p : Client) (mosi : List Byte) :
    Change s c (ignoredRises s p mosi) := by
  unfold ignoredRises
  dsimp only
  split_ifs
  · exact .linked (.ends _ _)
  · exact .idle s c
  · exact .link (.ends _ _) _

/-! ### Changes of the records leave the blocks around them -/

/-- The state has the time base, table time, the ports, the request in service and the supervision blocks of `s`. -/
structure SameOutside (s t : State) : Prop where
  timeBase : t.timeBase = s.timeBase := by simp
  tableTime : t.tableTime = s.tableTime := by simp
  ports : t.ports = s.ports := by simp
  executor : t.executor = s.executor := by simp
  control : t.control = s.control := by simp
  quota : t.quota = s.quota := by simp
  purging : t.purging = s.purging := by simp
  purgeQueue : t.purgeQueue = s.purgeQueue := by simp
  cursor : t.cursor = s.cursor := by simp

theorem Quiet.sameOutside {s t : State} (h : Quiet s t) : SameOutside s t :=
  ⟨h.timeBase, h.tableTime, h.ports, h.executor, h.control, h.quota, h.purging, h.purgeQueue, h.cursor⟩

theorem SameOutside.relabelRecord (s : State) (i : SlotId) (x : Rec) (tag : BitVec 16) (priority : Fin 4)
    (share : Bool) : SameOutside s (relabelRecord s i x tag priority share) := by
  unfold Machine.relabelRecord
  dsimp only
  split <;> exact {}

theorem SameOutside.acceptRecord (s : State) (i : SlotId) (x : Rec) (c : Client) :
    SameOutside s (acceptRecord s i x c) := by
  unfold Machine.acceptRecord moveEntry
  dsimp only
  split <;> exact { }

theorem RecordChange.sameOutside {s t : State} {c : Instr} (h : RecordChange s c t) : SameOutside s t := by
  cases h with
  | quiet h => exact h.sameOutside
  | relabel hx tag priority share => exact .relabelRecord s _ _ _ _ _
  | accept hx ho => exact .acceptRecord s _ _ _
  | create | retire | take | mask | endOffer | expiry => exact {}
  | offer => exact ⟨rfl, rfl, rfl, rfl, rfl, rfl, rfl, rfl, rfl⟩

/-- A purge step leaves the time base, table time and the ports. -/
theorem purgeStep_outside (s : State) (d : Client) (i : SlotId) :
    (moveCursor (examineSlot s d i) d i).timeBase = s.timeBase ∧
      (moveCursor (examineSlot s d i) d i).tableTime = s.tableTime ∧
      (moveCursor (examineSlot s d i) d i).ports = s.ports ∧
      (moveCursor (examineSlot s d i) d i).executor = s.executor := by
  unfold moveCursor
  split <;> simp

/-- Only a selection, a port reset and RESET touch the request in service. -/
theorem Change.executor {s t : State} {c : Instr} (h : Change s c t) (hselect : c ≠ .selection)
    (hport : ∀ p, c ≠ .portReset p) (hreset : ∀ pins, c ≠ .reset pins) : t.executor = s.executor := by
  cases h with
  | records hr => exact hr.sameOutside.executor
  | select => exact absurd rfl hselect
  | portReset p => exact absurd rfl (hport p)
  | portResetMarking p => exact absurd rfl (hport p)
  | reset pins => exact absurd rfl (hreset pins)
  | mark d => exact markClient_executor s d
  | advance => simp [tick]
  | purge _ i =>
    obtain ⟨_, _, _, hexecutor⟩ := purgeStep_outside s _ i
    exact hexecutor
  | startTime | timeBase | quota | control | link => rfl

/-! ### Every command -/

theorem stopped_eq_false {b : TimeBase} (h : tbState b ≠ .stopped) : b.stopped = false :=
  Bool.eq_false_iff.2 fun hs => h (tbState_eq_stopped.2 hs)

/-- The command takes a request, whose rule makes a change, and posts a response: a code and a payload that completes it. -/
def Posts (s : State) (c : Instr) (t : State) : Prop :=
  ∃ r code payload u, s.executor = some r ∧ Change s c u ∧ (u.ports = s.ports ∧ u.executor = s.executor) ∧
    (payload = [0] ∨ ∃ k, ruleOf k s r = .accept code payload u) ∧ t = post u r code payload

theorem posts_of_refusal {s : State} {c : Instr} {r : Serving} (hr : s.executor = some r) (code : ResultCode) :
    Posts s c (post s r code [0]) := ⟨r, code, [0], s, hr, .idle s c, ⟨rfl, rfl⟩, .inl rfl, rfl⟩

theorem takeRequest_change (s : State) (k : Kind) :
    Change s (instrOf k) (takeRequest s k (ruleOf k)) ∨ Posts s (instrOf k) (takeRequest s k (ruleOf k)) := by
  obtain heq | ⟨r, hr, _, ⟨code, heq⟩ | ⟨code, payload, u, hg, ha, heq⟩⟩ := takeRequest_cases s k (ruleOf k)
  · rw [heq]
    exact .inl (.idle s _)
  · rw [heq]
    exact .inr (posts_of_refusal hr code)
  · have hchange := ruleOf_change hg
    have hcompletes := ruleOf_completes k s r
    rw [ha] at hchange hcompletes
    obtain ⟨_, _, hports⟩ := hcompletes
    have hexecutor : u.executor = s.executor :=
      hchange.executor (by cases k <;> exact Instr.noConfusion) (by cases k <;> exact fun _ => Instr.noConfusion)
        (by cases k <;> exact fun _ => Instr.noConfusion)
    rw [heq]
    exact .inr ⟨r, code, payload, u, hr, hchange, ⟨hports, hexecutor⟩, .inr ⟨k, ha⟩, rfl⟩

/-- Every command makes one change, or takes a request. -/
theorem exec_change {c : Instr} {s t : State} (h : exec c s = .next t) : Change s c t ∨ Posts s c t := by
  cases c with
  | submit p edge =>
    cases edge with
    | falls => cases h; exact .inl (selFalls_change _ s p)
    | rises mosi => cases h; exact .inl (submitRises_change _ s p mosi)
  | fetch p edge =>
    cases edge with
    | falls => cases h; exact .inl (selFalls_change _ s p)
    | rises mosi => cases h; exact .inl (fetchRises_change _ s p mosi)
  | ignoredTransfer p edge =>
    cases edge with
    | falls => cases h; exact .inl (selFalls_change _ s p)
    | rises mosi => cases h; exact .inl (ignoredRises_change _ s p mosi)
  | fetchCodeRecognised p =>
    simp only [exec, execFetchCodeRecognised] at h
    split at h
    · cases h; exact .inl (selFalls_change _ s p)
    · next hheard =>
      cases h
      obtain ⟨hignored, _⟩ := not_or.1 hheard
      exact .inl (.linked (.chooses (Bool.eq_false_iff.2 hignored) _))
  | selection =>
    simp only [exec, execSelection] at h
    split at h
    · next p hidle hp =>
      cases h
      have hqueued : (s.ports.get p).inbound ≠ [] := by
        unfold nextPort at hp
        simpa using List.find?_some hp
      obtain ⟨body, rest, hq⟩ := List.exists_cons_of_ne_nil hqueued
      rw [selectPort, hq]
      exact .inl (.select hidle hq)
    · cases h; exact .inl (.idle s _)
    · cases h; exact .inl (.idle s _)
  | unknownRequest =>
    simp only [exec, execUnknownRequest] at h
    split at h
    · cases h; exact .inl (.idle s _)
    · next r hr =>
      split at h
      · cases h; exact .inr (posts_of_refusal hr .unknownRequest)
      · cases h; exact .inl (.idle s _)
  | create => cases h; exact takeRequest_change s .create
  | retire => cases h; exact takeRequest_change s .retire
  | arm => cases h; exact takeRequest_change s .arm
  | disarm => cases h; exact takeRequest_change s .disarm
  | revise => cases h; exact takeRequest_change s .revise
  | relabel => cases h; exact takeRequest_change s .relabel
  | query => cases h; exact takeRequest_change s .query
  | querySet => cases h; exact takeRequest_change s .querySet
  | bindOutput => cases h; exact takeRequest_change s .bindOutput
  | bindTrigger => cases h; exact takeRequest_change s .bindTrigger
  | unbind => cases h; exact takeRequest_change s .unbind
  | collect => cases h; exact takeRequest_change s .collect
  | acknowledge => cases h; exact takeRequest_change s .acknowledge
  | setMask => cases h; exact takeRequest_change s .setMask
  | offer => cases h; exact takeRequest_change s .offer
  | accept => cases h; exact takeRequest_change s .accept
  | decline => cases h; exact takeRequest_change s .decline
  | withdraw => cases h; exact takeRequest_change s .withdraw
  | listOffers => cases h; exact takeRequest_change s .listOffers
  | readTime => cases h; exact takeRequest_change s .readTime
  | startTime => cases h; exact takeRequest_change s .startTime
  | stopTime => cases h; exact takeRequest_change s .stopTime
  | holdTime => cases h; exact takeRequest_change s .holdTime
  | releaseTime => cases h; exact takeRequest_change s .releaseTime
  | setReleasePolicy => cases h; exact takeRequest_change s .setReleasePolicy
  | configureTrigger => cases h; exact takeRequest_change s .configureTrigger
  | configureOutput => cases h; exact takeRequest_change s .configureOutput
  | setQuota => cases h; exact takeRequest_change s .setQuota
  | grantControl => cases h; exact takeRequest_change s .grantControl
  | revokeControl => cases h; exact takeRequest_change s .revokeControl
  | purgeClient => cases h; exact takeRequest_change s .purgeClient
  | deviceStatus => cases h; exact takeRequest_change s .deviceStatus
  | purgeStep =>
    simp only [exec, execPurgeStep] at h
    split at h
    · cases h; exact .inl (.idle s _)
    · next hqueue => cases h; exact .inl (.purge hqueue _)
  | portReset p =>
    simp only [exec, execPortReset] at h
    split_ifs at h with _ hpurging
    · cases h; exact .inl (.idle s _)
    · cases h; exact .inl (.portReset p)
    · cases h; exact .inl (.portResetMarking p (Bool.eq_false_iff.2 hpurging))
  | portResetRelease p =>
    simp only [exec, execPortResetRelease] at h
    split at h
    · cases h; exact .inl (.linked .released)
    · cases h; exact .inl (.idle s _)
  | holdinAsserts => cases h; exact .inl (.timeBase (.hold s.timeBase.requestHold true (.inr rfl)))
  | holdinDeasserts =>
    rw [exec_holdinDeasserts, release_lineHold] at h
    cases h
    exact .inl (.timeBase (.hold s.timeBase.requestHold false (ite_eq_or_eq _ _ _)))
  | triggerEvent k level =>
    simp only [exec, execTriggerEvent] at h
    split at h
    · cases h; exact .inl (.idle s _)
    · cases h; exact .inl (.quiet ((Quiet.putTrg s k _).trans (.deliverAll _ _ _)))
  | owedAdvance =>
    simp only [exec, execOwedAdvance] at h
    split at h
    · next hedge =>
      obtain ⟨hrun, _⟩ := hedge
      cases h
      exact .inl (.timeBase (.count (stopped_eq_false hrun)))
    · cases h; exact .inl (.idle s _)
  | advance =>
    simp only [exec, execAdvance] at h
    split at h
    · next hdue => cases h; exact .inl (.advance hdue)
    · cases h; exact .inl (.idle s _)
  | expiry =>
    simp only [exec, execExpiry] at h
    split at h
    · cases h; exact .inl (.idle s _)
    · cases h; exact .inl (.records (.expiry _))
  | lapse i =>
    simp only [exec, execLapse] at h
    split at h
    · cases h; exact .inl (.idle s _)
    · next o ho =>
      split at h
      · cases h; exact .inl (.records (.endOffer (offerOf_some ho).1))
      · cases h; exact .inl (.idle s _)
  | reset pins => cases h; exact .inl (.reset pins)
  | refclkPhaseEdge =>
    simp only [exec, execRefclkPhaseEdge] at h
    split at h
    · next hedge =>
      obtain ⟨hrun, hphase⟩ := hedge
      cases h
      exact .inl (.timeBase (.edge (stopped_eq_false hrun) hphase))
    · cases h; exact .inl (.idle s _)

end Sys2Proof.Machine
end

section
/-! SUPPORT. The laws of the time base, of table time and of supervision: which changes touch those blocks, and what they make of
them. -/

namespace Sys2Proof.Machine

open Sys2Proof.Safety

/-! ### From changes to steps -/

/-- A law that every change and every posting keeps, and that the queue does not touch, is kept by every step. -/
theorem keptByStep_of_change {law : State → Prop} (hpending : ∀ s rest, law s → law { s with pending := rest })
    (hpost : ∀ s r code payload, law s → law (post s r code payload))
    (hchange : ∀ s c t, law s → Change s c t → law t) : KeptByStep law := by
  refine keptByStep_of_exec hpending fun c s t hs hexec => ?_
  obtain hc | ⟨r, code, payload, u, _, hc, _, _, rfl⟩ := exec_change hexec
  · exact hchange s c t hs hc
  · exact hpost u r code payload (hchange s c u hs hc)

/-! ### The time base (R25 to R28) -/

/-- Each move of the time base keeps its ranges, and STOPPED owes nothing (R26, R27). -/
theorem timeBaseLaw_move {b b' : TimeBase} (h : TimeBaseLaw b) (hmove : TimeBaseMove b b') : TimeBaseLaw b' := by
  obtain ⟨hpos, hmax, hphase, howed, hstopped⟩ := h
  cases hmove with
  | hold requested line hkept =>
    obtain rfl | rfl := hkept
    · exact ⟨hpos, hmax, hphase, Nat.zero_le _, fun hs => ⟨rfl, (hstopped hs).2⟩⟩
    · exact ⟨hpos, hmax, hphase, howed, hstopped⟩
  | policy p => exact ⟨hpos, hmax, hphase, howed, hstopped⟩
  | stop => exact ⟨hpos, hmax, hphase, Nat.zero_le _, fun _ => ⟨rfl, rfl⟩⟩
  | edge hrun hbelow => exact ⟨hpos, hmax, hbelow, howed, hstopped⟩
  | count hrun =>
    have hnot : ¬ b.stopped = true := Bool.eq_false_iff.1 hrun
    unfold countAdvance
    split
    · next hroom => exact ⟨hpos, hmax, hpos, hroom, fun hs => absurd hs hnot⟩
    · exact ⟨hpos, hmax, hpos, howed, fun hs => absurd hs hnot⟩

theorem timeBaseLaw_afterReset (pins : Pins) : TimeBaseLaw (State.afterReset pins).timeBase :=
  ⟨le_rfl, Nat.succ_le_succ (Nat.zero_le _), Nat.one_pos, Nat.zero_le _, fun _ => ⟨rfl, rfl⟩⟩

theorem timeBaseLaw_change {s t : State} {c : Instr} (h : TimeBaseLaw s.timeBase) (hc : Change s c t) :
    TimeBaseLaw t.timeBase := by
  cases hc with
  | records hr => rwa [hr.sameOutside.timeBase]
  | timeBase hb => exact timeBaseLaw_move h hb
  | startTime hstopped new hpos hmax =>
    obtain ⟨_, _, _, howed, hlaw⟩ := h
    exact ⟨hpos, hmax, hpos, howed, fun hs => absurd hs (by simp [startTime])⟩
  | advance hdue =>
    obtain ⟨hpos, hmax, hphase, howed, hlaw⟩ := h
    rw [expireAll_timeBase]
    exact ⟨hpos, hmax, hphase, (Nat.sub_le _ _).trans howed, fun hs => by simp [tick, hlaw hs]⟩
  | reset pins => exact timeBaseLaw_afterReset pins
  | purge hqueue i => rwa [(purgeStep_outside s _ i).1]
  | mark d => rwa [markClient_timeBase]
  | portResetMarking p => rwa [markClient_timeBase]
  | quota | control | link | select | portReset => exact h

/-! ### Table time (R21, R28) -/

/-- Table time moves by an advance, START-TIME and RESET alone. -/
theorem tableTime_change {s t : State} {c : Instr} (hc : Change s c t) :
    t.tableTime = s.tableTime ∨
      (c = .advance ∧ tbState s.timeBase = .running ∧ t.timeBase.owed + 1 = s.timeBase.owed ∧
        t.tableTime = s.tableTime + 1) ∨
      (c = .startTime ∧ s.timeBase.stopped = true) ∨ ∃ pins, c = .reset pins ∧ t.tableTime = 0 := by
  cases hc with
  | records hr => exact .inl hr.sameOutside.tableTime
  | startTime hstopped => exact .inr (.inr (.inl ⟨rfl, hstopped⟩))
  | advance hdue =>
    rw [advanceDue, advanceAllowed, Bool.and_eq_true, Bool.and_eq_true] at hdue
    obtain ⟨⟨hrun, howed⟩, _⟩ := hdue
    refine .inr (.inl ⟨rfl, of_decide_eq_true hrun, ?_, by rw [expireAll_tableTime]; rfl⟩)
    rw [expireAll_timeBase]
    exact Nat.sub_add_cancel (of_decide_eq_true howed)
  | reset pins => exact .inr (.inr (.inr ⟨pins, rfl, rfl⟩))
  | purge hqueue i => exact .inl (purgeStep_outside s _ i).2.1
  | mark d => exact .inl (markClient_tableTime s d)
  | portResetMarking p => exact .inl (markClient_tableTime _ p)
  | timeBase | quota | control | link | select | portReset => exact .inl rfl

/-! ### Supervision (R185, R187, R189) -/

/-- The law reads the supervision blocks alone. -/
theorem supervisionLaw_congr {s t : State} (h : SupervisionLaw s) (hcontrol : t.control = s.control)
    (hquota : t.quota = s.quota) (hpurging : t.purging = s.purging) (hqueue : t.purgeQueue = s.purgeQueue)
    (hcursor : t.cursor = s.cursor) : SupervisionLaw t := by
  unfold SupervisionLaw
  rwa [hcontrol, hquota, hpurging, hqueue, hcursor]

theorem control_zero_set {control : Table Bool 4} (h : control.get 0 = true) {d : Client} {b : Bool}
    (hb : d = 0 → b = true) : (control.set d b).get 0 = true := by
  rw [Table.get_set]
  split
  · next hd => exact hb hd.symm
  · exact h

/-- A client marked joins the tail of the purge queue, in which it was not (R190). -/
theorem supervisionLaw_markClient {s : State} (h : SupervisionLaw s) {d : Client} (hd : s.purging.get d = false) :
    SupervisionLaw (markClient s d) := by
  obtain ⟨hcontrol, hquota, hnodup, hmem, _⟩ := h
  have hnew : d ∉ s.purgeQueue := fun hin => by rw [(hmem d).1 hin] at hd; cases hd
  refine ⟨by rwa [markClient_control], by rwa [markClient_quota], ?_, fun c => ?_, fun _ => by simp⟩
  · rw [markClient_purgeQueue]
    exact List.nodup_append.2 ⟨hnodup, List.nodup_singleton d, fun a ha b hb hab => hnew (by simp_all)⟩
  · rw [markClient_purgeQueue, markClient_purging, Table.get_set, List.mem_append, List.mem_singleton, hmem]
    split
    · next hcd => simp [hcd]
    · next hcd => simp [hcd]

/-- A purge step leaves the queue, or ends the scan of its head, which is NORMAL then (R191). -/
theorem supervisionLaw_moveCursor {s : State} (h : SupervisionLaw s) {d : Client} {rest : List Client}
    (hqueue : s.purgeQueue = d :: rest) (i : SlotId) : SupervisionLaw (moveCursor s d i) := by
  obtain ⟨hcontrol, hquota, hnodup, hmem, _⟩ := h
  unfold moveCursor
  split
  · exact ⟨hcontrol, hquota, hnodup, hmem, fun _ => by simp [hqueue]⟩
  · rw [hqueue] at hnodup hmem
    obtain ⟨hhead, hrest⟩ := List.nodup_cons.1 hnodup
    refine ⟨hcontrol, hquota, by rwa [hqueue], fun c => ?_, fun hs => absurd hs Bool.false_ne_true⟩
    rw [hqueue, Table.get_set]
    split
    · next hcd => simp [hcd, hhead]
    · next hcd => rw [← hmem c]; simp [hcd]

theorem supervisionLaw_assertPortReset {s : State} (h : SupervisionLaw s) (p : Client) :
    SupervisionLaw (assertPortReset s p) := by
  obtain ⟨hcontrol, hrest⟩ := h
  refine ⟨?_, hrest⟩
  show (dropControl s.control p).get 0 = true
  unfold dropControl
  split
  · exact hcontrol
  · next hp => exact control_zero_set hcontrol fun h0 => absurd h0 hp

theorem supervisionLaw_afterReset (pins : Pins) : SupervisionLaw (State.afterReset pins) := by
  have hsum : quotaSum (Table.fill 4 Config.resetQuota) ≤ Config.tableSize := by decide
  refine ⟨rfl, hsum, List.nodup_nil, fun c => ?_, fun hs => absurd hs Bool.false_ne_true⟩
  simp [State.afterReset]

theorem supervisionLaw_change {s t : State} {c : Instr} (h : SupervisionLaw s) (hc : Change s c t) :
    SupervisionLaw t := by
  cases hc with
  | records hr =>
    have ho := hr.sameOutside
    exact supervisionLaw_congr h ho.control ho.quota ho.purging ho.purgeQueue ho.cursor
  | quota d hn =>
    obtain ⟨hcontrol, _, hrest⟩ := h
    exact ⟨hcontrol, hn, hrest⟩
  | control d hb =>
    obtain ⟨hcontrol, hrest⟩ := h
    exact ⟨control_zero_set hcontrol hb, hrest⟩
  | mark d hd => exact supervisionLaw_markClient h hd
  | portReset p => exact supervisionLaw_assertPortReset h p
  | portResetMarking p hp => exact supervisionLaw_markClient (supervisionLaw_assertPortReset h p) hp
  | @purge _ d _ hqueue i =>
    have hexamined : SupervisionLaw (examineSlot s d i) := supervisionLaw_congr h (by simp) (by simp) (by simp) (by simp) (by simp)
    exact supervisionLaw_moveCursor hexamined (by rw [examineSlot_purgeQueue, hqueue]) i
  | advance => exact supervisionLaw_congr h (by simp [tick]) (by simp [tick]) (by simp [tick]) (by simp [tick]) (by simp [tick])
  | reset pins => exact supervisionLaw_congr (supervisionLaw_afterReset pins) rfl rfl rfl rfl rfl
  | startTime | timeBase | link | select => exact h

end Sys2Proof.Machine
end

section
/-! CERTIFICATE. The statements about the time base, table time and supervision as every command leaves them (02_table_time.md,
11_supervision_and_purge.md). -/

namespace Sys2Proof.Claims

open Sys2Proof.Machine Sys2Proof.Safety

/-- Settles O4: of the changes a command can make, the moves of the time base, START-TIME, an advance and RESET touch the time
base, and each keeps its ranges. -/
theorem timeBaseLawKept : Obligations.TimeBaseLawKept :=
  keptByStep_of_change (fun _ _ h => h) (fun s r code payload h => by rwa [post_timeBase])
    fun _ _ _ h hc => timeBaseLaw_change h hc

/-- Settles O7: the requests on quotas and the control set, the markings, the port resets and the purge steps touch the
supervision blocks. A client marked was NORMAL and so not in the queue, and the client whose scan ends was at its head. -/
theorem supervisionLawKept : Obligations.SupervisionLawKept :=
  keptByStep_of_change (fun _ _ h => h)
    (fun s r code payload h => supervisionLaw_congr h (by simp) (by simp) (by simp) (by simp) (by simp))
    fun _ _ _ h hc => supervisionLaw_change h hc

/-- Settles O15: the change that a command makes moves table time in the three ways named, and a posting leaves it. -/
theorem tableTimeMovesOnlyByAdvanceStartAndReset : Obligations.TableTimeMovesOnlyByAdvanceStartAndReset := by
  intro s t c rest hpending hstep
  rw [step, hpending] at hstep
  obtain hc | ⟨r, code, payload, u, _, hc, _, _, rfl⟩ := exec_change hstep
  · have hmoves := tableTime_change hc
    exact hmoves
  · have hmoves := tableTime_change hc
    rwa [post_tableTime, post_timeBase]

end Sys2Proof.Claims
end

section
/-! SUPPORT. What each change keeps of every record: an operation that writes fields outside a part of the record keeps that part
of every record, and every generation. -/

namespace Sys2Proof.Machine

section Operations

variable {α : Type} {f : Rec → α} {s t : State}

theorem Kept.mapRecord (i : SlotId) {g : Rec → Rec} (hg : ∀ r, f (g r) = f r) : Kept f s (mapRecord s i g) := by
  unfold Machine.mapRecord
  split
  · exact .refl s
  · next x hx => exact .putRecord hx (hg x)

theorem Kept.fire (hf : ∀ now r, f (firedRecord now r) = f r) (i : SlotId) : Kept f s (fire s i) := by
  unfold Machine.fire
  split
  · exact .refl s
  · next x hx =>
    have hfired := hf s.tableTime x
    unfold firedRecord at hfired
    split
    · next hu =>
      rw [if_pos hu] at hfired
      exact (Kept.putRecord hx hfired).trans (.of_slots rfl)
    · next hu =>
      rw [if_neg hu] at hfired
      exact (Kept.putRecord hx hfired).trans (.of_slots rfl)

/-- An expiry writes the timing of its record, and what a firing writes. -/
theorem Kept.expireAt (hstanding : ∀ x y : Rec, x.standing = y.standing → f x = f y)
    (hf : ∀ now r, f (firedRecord now r) = f r) (i : SlotId) : Kept f s (expireAt s i) := by
  unfold Machine.expireAt
  split
  · exact .refl s
  · next x hx =>
    have hplaced : Kept f s (reschedule
        (Machine.driveBinding (Machine.putRecord s i (expireRecord s.tableTime x).record)
          (expireRecord s.tableTime x).record.outputBinding) i (expireRecord s.tableTime x).schedule) :=
      ((Kept.putRecord hx (hstanding _ _ (standing_expireRecord s.tableTime x))).trans
        (.of_slots (driveBinding_slots _ _))).trans (.of_slots (reschedule_slots _ _ _))
    unfold Machine.applyEffect
    dsimp only
    split
    · exact hplaced.trans (.fire hf i)
    · exact hplaced

theorem Kept.expireAll (hstanding : ∀ x y : Rec, x.standing = y.standing → f x = f y)
    (hf : ∀ now r, f (firedRecord now r) = f r) (l : List SlotId) : Kept f s (expireAll s l) := by
  induction l generalizing s with
  | nil => exact .refl s
  | cons i rest ih => exact (Kept.expireAt hstanding hf i).trans ih

theorem Kept.takeEntries (hf : ∀ r, f (acknowledged r) = f r) (c : Client) (l : List SlotId) :
    Kept f s (takeEntries s c l) := by
  induction l generalizing s with
  | nil => exact .refl s
  | cons i rest ih =>
    have hentry : Kept f s (takeEntry s c i) := (Kept.of_slots (leaveSet_slots s c i)).trans (.mapRecord i hf)
    exact hentry.trans ih

theorem Kept.relabelRecord {i : SlotId} {x : Rec} (hx : recordAt s i = some x) (tag : BitVec 16) (priority : Fin 4)
    (share : Bool) (hf : f { x with tag := tag, priority := priority, share := share } = f x) :
    Kept f s (relabelRecord s i x tag priority share) := by
  have hwritten : Kept f s (Machine.putRecord s i { x with tag := tag, priority := priority, share := share }) :=
    .putRecord hx hf
  unfold Machine.relabelRecord
  dsimp only
  split <;> exact hwritten.trans (.of_slots rfl)

theorem Kept.openOffer {i : SlotId} {x : Rec} (hx : recordAt s i = some x) (o : Offer)
    (hf : f { x with offered := true } = f x) : Kept f s (openOffer s i x o) := by
  have hopened : Kept f s { s with offers := s.offers ++ [o] } := .of_slots rfl
  exact (hopened.trans (.putRecord hx hf)).trans (.of_slots rfl)

theorem Kept.endOffer (hf : ∀ r : Rec, f { r with offered := false } = f r) (o : Offer) : Kept f s (endOffer s o) := by
  have hremoved : Kept f s { s with offers := s.offers.filter fun q => decide (q.record ≠ o.record) } := .of_slots rfl
  exact (hremoved.trans (.mapRecord o.record hf)).trans (.of_slots rfl)

theorem Kept.endOffers (hf : ∀ r : Rec, f { r with offered := false } = f r) (l : List Offer) :
    Kept f s (endOffers s l) := by
  induction l generalizing s with
  | nil => exact .refl s
  | cons o rest ih => exact (Kept.endOffer hf o).trans ih

theorem Kept.markClient (hf : ∀ r : Rec, f { r with offered := false } = f r) (c : Client) :
    Kept f s (markClient s c) := by
  have hmarked : Kept f s { s with purging := s.purging.set c true } := .of_slots rfl
  exact (hmarked.trans (.endOffers hf (offersOf s c))).trans (.of_slots rfl)

theorem Kept.startTime (hf : ∀ d r, f (rebased d r) = f r) (new : Time) (n : Nat) : Kept f s (startTime s new n) := by
  intro i
  have hslot : (Machine.startTime s new n).slots.get i = rebaseSlot (new - s.tableTime) (s.slots.get i) :=
    Table.get_map s.slots (rebaseSlot (new - s.tableTime)) i
  have hgeneration : ((Machine.startTime s new n).slots.get i).generation = (s.slots.get i).generation := by
    rw [hslot]; rfl
  rw [viewAt, viewAt, hgeneration, recordAt_startTime, Option.map_map]
  congr 2
  exact funext fun r => hf _ r

end Operations

/-- An ACCEPT changes the owner and the offer field of its record, and no other record and no generation (R141). -/
theorem viewAt_acceptRecord {α : Type} (f : Rec → α) (s : State) (i j : SlotId) (x : Rec) (c : Client) :
    viewAt f (acceptRecord s i x c) j =
      if j = i then ((s.slots.get i).generation, some (f { x with owner := c, offered := false })) else viewAt f s j := by
  have hslots : (acceptRecord s i x c).slots =
      (putRecord (removeOffer s i) i { x with owner := c, offered := false }).slots := by
    unfold acceptRecord moveEntry
    dsimp only
    split <;> rfl
  have hput : viewAt f (acceptRecord s i x c) j =
      viewAt f (putRecord (removeOffer s i) i { x with owner := c, offered := false }) j := Kept.of_slots hslots j
  rw [hput, viewAt_putRecord, removeOffer, mapRecord_generation]
  split
  · rfl
  · next hji =>
    rw [viewAt, mapRecord_generation, recordAt_mapRecord, if_neg hji]
    rfl

theorem recordAt_acceptRecord (s : State) (i j : SlotId) (x : Rec) (c : Client) :
    recordAt (acceptRecord s i x c) j = if j = i then some { x with owner := c, offered := false } else recordAt s j := by
  have hview := congrArg Prod.snd (viewAt_acceptRecord id s i j x c)
  simp only [viewAt, Option.map_id_fun, id_eq] at hview
  rw [hview]
  split <;> rfl

/-- A retirement leaves every other slot (R14). -/
theorem viewAt_retireRecord_of_ne {α : Type} (f : Rec → α) (s : State) {i j : SlotId} (r : Rec) (h : j ≠ i) :
    viewAt f (retireRecord s i r) j = viewAt f s j := by
  rw [viewAt, viewAt, recordAt_retireRecord, retireRecord_generation, if_neg h, if_neg h]

/-- A CREATE fills one slot (R13). -/
theorem viewAt_create_of_ne {α : Type} (f : Rec → α) (s : State) {i j : SlotId} (rest : List SlotId) (new : Rec)
    (c : Client) (n : Nat) (h : j ≠ i) :
    viewAt f (putOwned (putRecord { s with freeList := rest } i new) c n) j = viewAt f s j := by
  have hslots : viewAt f (putOwned (putRecord { s with freeList := rest } i new) c n) j =
      viewAt f (putRecord { s with freeList := rest } i new) j := Kept.of_slots rfl j
  rw [hslots, viewAt_putRecord, if_neg h]
  rfl

end Sys2Proof.Machine
end

section
/-! SUPPORT. The accounts of the record table: the free list against the FREE slots, and the owned counts against the live records
of each client. -/

namespace Sys2Proof.Machine

open Sys2Proof.Safety

/-! ### Counting -/

/-- A count over distinct things that changes its mind about one of them. -/
theorem countP_update {α : Type} [DecidableEq α] {l : List α} {a : α} (hn : l.Nodup) (ha : a ∈ l) {p q : α → Bool}
    (h : ∀ b, b ≠ a → q b = p b) :
    l.countP q + (if p a = true then 1 else 0) = l.countP p + if q a = true then 1 else 0 := by
  have hperm := List.perm_cons_erase ha
  have herase : (l.erase a).countP q = (l.erase a).countP p :=
    List.countP_congr fun b hb => by rw [h b fun hba => hn.not_mem_erase (hba ▸ hb)]
  rw [hperm.countP_eq q, hperm.countP_eq p, List.countP_cons, List.countP_cons, herase]
  omega

/-- The owner of the record in a slot, if it is not FREE. -/
def ownerAt (s : State) (i : SlotId) : Option Client := (recordAt s i).map Rec.owner

theorem ownerAt_eq_none {s : State} {i : SlotId} : ownerAt s i = none ↔ recordAt s i = none := Option.map_eq_none_iff

theorem ownerAt_eq {s : State} {i : SlotId} {x : Rec} (hx : recordAt s i = some x) : ownerAt s i = some x.owner := by
  rw [ownerAt, hx]
  rfl

theorem liveCount_congr {s t : State} (h : ∀ i, ownerAt t i = ownerAt s i) (c : Client) :
    liveCount t c = liveCount s c := by
  unfold liveCount
  refine List.countP_congr fun i _ => ?_
  rw [show (recordAt t i).map Rec.owner = (recordAt s i).map Rec.owner from h i]

/-- The counts of live records after a change in one slot. -/
theorem liveCount_update {s t : State} {i : SlotId} (h : ∀ j, j ≠ i → ownerAt t j = ownerAt s j) (c : Client) :
    liveCount t c + (if ownerAt s i = some c then 1 else 0) = liveCount s c + if ownerAt t i = some c then 1 else 0 := by
  have hcount := countP_update (List.nodup_finRange 2048) (List.mem_finRange i)
    (p := fun j => decide (ownerAt s j = some c)) (q := fun j => decide (ownerAt t j = some c))
    fun j hj => by simp only [h j hj]
  simp only [decide_eq_true_eq] at hcount
  exact hcount

theorem freeSlotsLaw_of_accountLaw {s : State} (h : AccountLaw s) : FreeSlotsLaw s := by
  obtain ⟨hnodup, hfree, _⟩ := h
  exact ⟨hnodup, fun i hi => (hfree i).1 hi⟩

/-! ### Changes -/

/-- The mode and the owner of a record. -/
def Rec.identity (r : Rec) : Mode × Client := (r.mode, r.owner)

theorem identity_of_standing (x y : Rec) (h : x.standing = y.standing) : x.identity = y.identity :=
  congrArg (fun d : Standing => (d.mode, d.owner)) h

/-- A firing changes neither the mode nor the owner. -/
theorem identity_firedRecord (now : Time) (r : Rec) : (firedRecord now r).identity = r.identity := by
  unfold firedRecord; split <;> rfl

theorem Quiet.identity {s t : State} (h : Quiet s t) : Kept Rec.identity s t := h.held.comp fun d => (d.mode, d.owner)

theorem ownerAt_of_kept {s t : State} (h : Kept Rec.identity s t) (i : SlotId) : ownerAt t i = ownerAt s i :=
  (h.comp Prod.snd).map_eq i

/-- Where the free list, the owned counts and the owners stand, so do the accounts. -/
theorem accountLaw_congr {s t : State} (h : AccountLaw s) (hkept : Kept Rec.identity s t)
    (hfree : t.freeList = s.freeList) (howned : t.owned = s.owned) : AccountLaw t := by
  obtain ⟨hnodup, hslots, hcounts⟩ := h
  refine ⟨hfree ▸ hnodup, fun i => ?_, fun c => ?_⟩
  · rw [hfree, hkept.recordAt_eq_none, hslots]
  · rw [howned, hcounts, liveCount_congr (ownerAt_of_kept hkept)]

/-- A record of client `c` counts among its live records. -/
theorem liveCount_pos {s : State} {i : SlotId} {x : Rec} (hx : recordAt s i = some x) : 1 ≤ liveCount s x.owner := by
  have hpos : 0 < liveCount s x.owner :=
    List.countP_pos_iff.2 ⟨i, List.mem_finRange i, by simp [hx]⟩
  exact hpos

/-- A change in one slot keeps the accounts, if the free list takes or gives the slot with its record, and the owned counts take
and give it with its owner. -/
theorem accountLaw_update {s t : State} {i : SlotId} (h : AccountLaw s) (hother : ∀ j, j ≠ i → recordAt t j = recordAt s j)
    (hnodup : t.freeList.Nodup) (hself : i ∈ t.freeList ↔ recordAt t i = none)
    (hrest : ∀ j, j ≠ i → (j ∈ t.freeList ↔ j ∈ s.freeList))
    (howned : ∀ c, t.owned.get c + (if ownerAt s i = some c then 1 else 0) =
      s.owned.get c + if ownerAt t i = some c then 1 else 0) : AccountLaw t := by
  obtain ⟨_, hslots, hcounts⟩ := h
  refine ⟨hnodup, fun j => ?_, fun c => ?_⟩
  · by_cases hj : j = i
    · rw [hj, hself]
    · rw [hrest j hj, hslots, hother j hj]
  · have hcount := liveCount_update (s := s) (t := t) (i := i)
      (fun j hj => congrArg (Option.map Rec.owner) (hother j hj)) c
    have hc := howned c
    rw [hcounts c] at hc
    omega

/-- A CREATE moves the slot at the head of the free list to its owner's count (R13). -/
theorem accountLaw_create {s : State} (h : AccountLaw s) {i : SlotId} {rest : List SlotId} (hfree : s.freeList = i :: rest)
    {new : Rec} {c : Client} (hnew : new.owner = c) :
    AccountLaw (putOwned (putRecord { s with freeList := rest } i new) c (s.owned.get c + 1)) := by
  have ⟨hnodup, hslots, _⟩ := h
  rw [hfree] at hnodup hslots
  obtain ⟨hhead, hrest⟩ := List.nodup_cons.1 hnodup
  have hself : recordAt (putOwned (putRecord { s with freeList := rest } i new) c (s.owned.get c + 1)) i = some new :=
    recordAt_putRecord_self _ i new
  have hempty : ownerAt s i = none := ownerAt_eq_none.2 ((hslots i).1 List.mem_cons_self)
  refine accountLaw_update (i := i) h (fun j hj => recordAt_putRecord_of_ne _ new hj) hrest ?_ (fun j hj => ?_)
    fun d => ?_
  · rw [hself]
    exact ⟨fun hin => absurd hin hhead, fun hn => by cases hn⟩
  · rw [hfree, List.mem_cons]
    exact ⟨.inr, fun hin => hin.resolve_left hj⟩
  · show (s.owned.set c (s.owned.get c + 1)).get d + _ = _
    rw [hempty, ownerAt_eq hself, hnew, Table.get_set]
    by_cases hd : d = c
    · simp [hd]
    · simp [hd, Ne.symm hd]

/-- A retirement moves its slot from its owner's count to the tail of the free list (R14). -/
theorem accountLaw_retireRecord {s : State} (h : AccountLaw s) {i : SlotId} {x : Rec} (hx : recordAt s i = some x) :
    AccountLaw (retireRecord s i x) := by
  have ⟨_, _, hcounts⟩ := h
  have hfreeLaw := freeSlotsLaw_retireRecord (freeSlotsLaw_of_accountLaw h) hx
  have hgone : recordAt (retireRecord s i x) i = none := by rw [recordAt_retireRecord, if_pos rfl]
  have hlive : 1 ≤ s.owned.get x.owner := by
    rw [hcounts]
    exact liveCount_pos hx
  refine accountLaw_update (i := i) h (fun j hj => by rw [recordAt_retireRecord, if_neg hj]) hfreeLaw.1 ?_
    (fun j hj => by simp [hj]) fun d => ?_
  · rw [hgone]
    simp
  · rw [retireRecord_owned, ownerAt_eq hx, ownerAt_eq_none.2 hgone, Table.get_set]
    by_cases hd : d = x.owner
    · rw [if_pos hd, hd]
      simp
      omega
    · simp [hd, Ne.symm hd]

theorem acceptRecord_owned (s : State) (i : SlotId) (x : Rec) (c : Client) :
    (acceptRecord s i x c).owned =
      (s.owned.set x.owner (s.owned.get x.owner - 1)).set c
        ((s.owned.set x.owner (s.owned.get x.owner - 1)).get c + 1) := by
  unfold acceptRecord moveEntry
  dsimp only
  split <;> simp [putOwned]

theorem acceptRecord_freeList (s : State) (i : SlotId) (x : Rec) (c : Client) :
    (acceptRecord s i x c).freeList = s.freeList := by
  unfold acceptRecord moveEntry
  dsimp only
  split <;> simp

/-- An ACCEPT moves its record from one client's count to the other's (R141). -/
theorem accountLaw_acceptRecord {s : State} (h : AccountLaw s) {i : SlotId} {x : Rec} (hx : recordAt s i = some x)
    (c : Client) : AccountLaw (acceptRecord s i x c) := by
  have ⟨hnodup, hslots, hcounts⟩ := h
  have hy : recordAt (acceptRecord s i x c) i = some { x with owner := c, offered := false } := by
    rw [recordAt_acceptRecord, if_pos rfl]
  have hlive : 1 ≤ s.owned.get x.owner := by
    rw [hcounts]
    exact liveCount_pos hx
  have hfree := acceptRecord_freeList s i x c
  refine accountLaw_update (i := i) h (fun j hj => by rw [recordAt_acceptRecord, if_neg hj]) (hfree ▸ hnodup) ?_
    (fun j _ => by rw [hfree]) fun d => ?_
  · rw [hfree, hslots, hx, hy]
    simp
  · rw [acceptRecord_owned, ownerAt_eq hx, ownerAt_eq hy]
    simp only [Table.get_set, Option.some.injEq]
    by_cases hdx : d = x.owner
    · by_cases hdc : d = c
      · rw [if_pos hdc, if_pos (hdc.symm.trans hdx), if_pos hdx.symm, if_pos hdc.symm, hdx]
        omega
      · rw [if_neg hdc, if_pos hdx, if_pos hdx.symm, if_neg (Ne.symm hdc), hdx]
        omega
    · by_cases hdc : d = c
      · rw [if_pos hdc, if_neg fun hcx => hdx (hdc.trans hcx), if_neg (Ne.symm hdx), if_pos hdc.symm, hdc]
      · rw [if_neg hdc, if_neg hdx, if_neg (Ne.symm hdx), if_neg (Ne.symm hdc)]

/-- After RESET there are no records (R11). -/
theorem recordAt_afterReset (pins : Pins) (i : SlotId) : recordAt (State.afterReset pins) i = none := by
  rw [recordAt, State.afterReset, Table.get_fill]

/-- After RESET every slot is FREE and on the free list, and no client owns a record (R11). -/
theorem accountLaw_afterReset (pins : Pins) : AccountLaw (State.afterReset pins) := by
  have hnone := recordAt_afterReset pins
  have hfree : (State.afterReset pins).freeList = List.finRange 2048 := by simp only [State.afterReset, allSlots]
  refine ⟨hfree ▸ List.nodup_finRange 2048, fun i => ⟨fun _ => hnone i, fun _ => hfree ▸ List.mem_finRange i⟩,
    fun c => ?_⟩
  have hzero : liveCount (State.afterReset pins) c = 0 :=
    List.countP_eq_zero.2 fun i _ => by simp [hnone i]
  rw [hzero]
  simp only [State.afterReset, Table.get_fill]

theorem accountLaw_recordChange {s t : State} {c : Instr} (h : AccountLaw s) (hc : RecordChange s c t) :
    AccountLaw t := by
  cases hc with
  | quiet hq => exact accountLaw_congr h hq.identity hq.freeList hq.owned
  | create hfree owner => exact accountLaw_create h hfree rfl
  | retire hx => exact accountLaw_retireRecord h hx
  | accept hx => exact accountLaw_acceptRecord h hx _
  | relabel hx tag priority share =>
    refine accountLaw_congr h (.relabelRecord hx tag priority share rfl) ?_ ?_ <;>
      (unfold relabelRecord; dsimp only; split <;> rfl)
  | take d =>
    exact accountLaw_congr h ((Kept.takeEntries (fun _ => rfl) d _).trans (.of_slots rfl)) (by simp) (by simp)
  | mask d => exact accountLaw_congr h (.of_slots rfl) rfl rfl
  | offer hx => exact accountLaw_congr h (.openOffer hx _ rfl) rfl rfl
  | endOffer => exact accountLaw_congr h (.endOffer (fun _ => rfl) _) (by simp) (by simp)
  | expiry i => exact accountLaw_congr h (.expireAt identity_of_standing identity_firedRecord i) (by simp) (by simp)

theorem accountLaw_change {s t : State} {c : Instr} (h : AccountLaw s) (hc : Change s c t) : AccountLaw t := by
  cases hc with
  | records hr => exact accountLaw_recordChange h hr
  | startTime _ new => exact accountLaw_congr h (.startTime (fun _ _ => rfl) new _) rfl rfl
  | mark d => exact accountLaw_congr h (.markClient (fun _ => rfl) d) (by simp) (by simp)
  | portResetMarking p =>
    have hreset : AccountLaw (assertPortReset s p) := accountLaw_congr h (.of_slots rfl) rfl rfl
    exact accountLaw_congr hreset (.markClient (fun _ => rfl) p) (by simp) (by simp)
  | advance =>
    exact accountLaw_congr h
      ((Kept.of_slots rfl).trans (.expireAll identity_of_standing identity_firedRecord _)) (by simp [tick]) (by simp [tick])
  | @purge _ d _ _ i =>
    have hexamined : AccountLaw (examineSlot s d i) := by
      unfold examineSlot
      split
      · exact h
      · next hx =>
        split
        · exact accountLaw_retireRecord h hx
        · exact h
    unfold moveCursor
    split <;> exact accountLaw_congr hexamined (.of_slots rfl) rfl rfl
  | reset pins =>
    have hreset := accountLaw_afterReset pins
    generalize State.afterReset pins = u at hreset ⊢
    exact accountLaw_congr hreset (.of_slots rfl) rfl rfl
  | timeBase | quota | control | link | select | portReset => exact accountLaw_congr h (.of_slots rfl) rfl rfl

end Sys2Proof.Machine
end

section
/-! CERTIFICATE. The statements about the accounts of the record table, the owners of records and their firings
(01_records_and_handles.md, 04_record_modes.md). -/

namespace Sys2Proof.Claims

open Sys2Proof.Machine Sys2Proof.Safety

/-- Settles O8: CREATE, ACCEPT and a retirement each move one slot between the free list and the counts, and every other change
keeps the free list, the owned counts and the owner of every record. -/
theorem accountLawKept : Obligations.AccountLawKept :=
  keptByStep_of_change (fun _ _ h => accountLaw_congr h (.of_slots rfl) rfl rfl)
    (fun s r code payload h => accountLaw_congr h (.of_slots (post_slots s r code payload)) (by simp) (by simp))
    fun _ _ _ h hc => accountLaw_change h hc

/-- Each thing of a list has no client or one of the four. -/
theorem countP_none_add_clients {α : Type} (g : α → Option Client) (l : List α) :
    l.countP (fun a => decide (g a = none)) + l.countP (fun a => decide (g a = some 0))
      + l.countP (fun a => decide (g a = some 1)) + l.countP (fun a => decide (g a = some 2))
      + l.countP (fun a => decide (g a = some 3)) = l.length := by
  induction l with
  | nil => rfl
  | cons a rest ih =>
    simp only [List.countP_cons, List.length_cons, ← ih]
    obtain hg | ⟨c, hg⟩ := Option.eq_none_or_eq_some (g a)
    · simp [hg]
      omega
    · fin_cases c <;> simp [hg] <;> omega

/-- Settles O13: the free list is as long as the FREE slots are many, and each of the 2048 slots is FREE or holds a record of one
of the four clients. -/
theorem freeSlotsAndOwnedCountsSumTo2048 : Obligations.FreeSlotsAndOwnedCountsSumTo2048 := by
  intro s ⟨hnodup, hslots, hcounts⟩
  have hfree : s.freeList.length = (List.finRange 2048).countP fun i => decide (ownerAt s i = none) := by
    have hperm : s.freeList.Perm ((List.finRange 2048).filter fun i => decide (ownerAt s i = none)) := by
      refine (List.perm_ext_iff_of_nodup hnodup ((List.nodup_finRange 2048).filter _)).2 fun i => ?_
      rw [hslots, List.mem_filter, decide_eq_true_eq, ownerAt_eq_none]
      exact ⟨fun h => ⟨List.mem_finRange i, h⟩, And.right⟩
    rw [hperm.length_eq, List.countP_eq_length_filter]
  have hall := countP_none_add_clients (ownerAt s) (List.finRange 2048)
  rw [List.length_finRange] at hall
  rw [hfree, hcounts, hcounts, hcounts, hcounts]
  exact hall

end Sys2Proof.Claims
end

section
/-! SUPPORT. What becomes of a record that stays live: every change leaves it as it stands but for its labels and its offer field,
acknowledges it, hands it over, or may fire it. -/

namespace Sys2Proof.Machine

open Sys2Proof.Safety

/-! ### Entries taken from a set (R123, R127) -/

theorem recordAt_takeEntry (s : State) (c : Client) (i j : SlotId) :
    recordAt (takeEntry s c i) j = if j = i then (recordAt s j).map acknowledged else recordAt s j := by
  rw [takeEntry, recordAt_mapRecord, recordAt_eq_of_slots (leaveSet_slots s c i),
    recordAt_eq_of_slots (leaveSet_slots s c i)]
  split
  · next h => rw [h]
  · rfl

/-- The records taken are acknowledged, and the others stand. -/
theorem recordAt_takeEntries (s : State) (c : Client) (l : List SlotId) (j : SlotId) :
    recordAt (takeEntries s c l) j = if j ∈ l then (recordAt s j).map acknowledged else recordAt s j := by
  induction l generalizing s with
  | nil => rfl
  | cons i rest ih =>
    rw [takeEntries, ih, recordAt_takeEntry]
    by_cases hji : j = i
    · simp only [hji, if_true, List.mem_cons, true_or, Option.map_map]
      split <;> rfl
    · simp only [hji, if_false, List.mem_cons, false_or]

/-! ### Records that stay live -/

/-- What a record reports of its firings (R120). -/
def Rec.report (r : Rec) : Bool × Option Time × Nat × Option Time :=
  (r.unacknowledged, r.firstFire, r.overrun, r.lastFire)

/-- What a command can make of the record `x` in slot `i`, where it stays live as `y`. -/
inductive Lives (s : State) (c : Instr) (i : SlotId) (x y : Rec) : Prop
  | stands (hidentity : y.identity = x.identity) (hreport : y.report = x.report)
  | acknowledged (hidentity : y.identity = x.identity) (hlast : y.lastFire = x.lastFire) (hu : y.unacknowledged = false)
  | handed {o : Offer} (hc : c = .accept) (ho : o ∈ s.offers) (hrecord : o.record = i)
      (hy : y.identity = (x.mode, o.receiver)) (hreport : y.report = x.report)
  | expired (hc : c = .advance ∨ c = .expiry) (hidentity : y.identity = x.identity)

/-- The slot keeps its generation, and its record lives on in one of the ways of `Lives`. -/
def LivesOn (s t : State) (c : Instr) (i : SlotId) (x y : Rec) : Prop :=
  (t.slots.get i).generation = (s.slots.get i).generation ∧ Lives s c i x y

section

variable {s t : State} {c : Instr} {i : SlotId} {x y : Rec}

/-- What a record is and what it reports. -/
def Rec.history (r : Rec) : (Mode × Client) × (Bool × Option Time × Nat × Option Time) := (r.identity, r.report)

/-- The slot shows the same identity and report. -/
theorem LivesOn.of_view (h : viewAt Rec.history t i = viewAt Rec.history s i) (hx : recordAt s i = some x)
    (hy : recordAt t i = some y) : LivesOn s t c i x y := by
  simp only [viewAt, hx, hy, Option.map_some, Prod.mk.injEq, Option.some.injEq] at h
  obtain ⟨hgeneration, hhistory⟩ := h
  exact ⟨hgeneration, .stands (congrArg Prod.fst hhistory) (congrArg Prod.snd hhistory)⟩

theorem LivesOn.of_kept (h : Kept Rec.history s t) (hx : recordAt s i = some x) (hy : recordAt t i = some y) :
    LivesOn s t c i x y := .of_view (h i) hx hy

theorem LivesOn.of_expired (h : Kept Rec.identity s t) (hc : c = .advance ∨ c = .expiry) (hx : recordAt s i = some x)
    (hy : recordAt t i = some y) : LivesOn s t c i x y := ⟨h.generation i, .expired hc (h.eq_of_live hx hy)⟩

/-- A record that is live in a slot before and after a retirement is not the one retired. -/
theorem LivesOn.of_retired {j : SlotId} {z : Rec} (hx : recordAt s i = some x)
    (hy : recordAt (retireRecord s j z) i = some y) : LivesOn s (retireRecord s j z) c i x y := by
  have hij : i ≠ j := fun h => by rw [recordAt_retireRecord, if_pos h] at hy; cases hy
  exact .of_view (viewAt_retireRecord_of_ne Rec.history s z hij) hx hy

theorem LivesOn.of_taken (d : Client) (l : List SlotId) (hx : recordAt s i = some x)
    (hy : recordAt (takeEntries s d l) i = some y) : LivesOn s (takeEntries s d l) c i x y := by
  have hkept : Kept Rec.identity s (takeEntries s d l) := .takeEntries (fun _ => rfl) d l
  refine ⟨hkept.generation i, ?_⟩
  rw [recordAt_takeEntries, hx] at hy
  split at hy
  · cases hy
    exact .acknowledged rfl rfl rfl
  · cases hy
    exact .stands rfl rfl

theorem RecordChange.livesOn (hfree : FreeSlotsLaw s) (hc : RecordChange s c t) (hx : recordAt s i = some x)
    (hy : recordAt t i = some y) : LivesOn s t c i x y := by
  cases hc with
  | quiet hq =>
    refine .of_kept (hq.held.comp fun d => ((d.mode, d.owner), d.unacknowledged, d.firstFire, d.overrun, d.lastFire)) hx hy
  | @create j rest hhead =>
    obtain ⟨_, hnone⟩ := hfree
    have hij : i ≠ j := fun h => by
      rw [h, hnone j (hhead ▸ List.mem_cons_self)] at hx
      cases hx
    exact .of_view (viewAt_create_of_ne Rec.history s rest _ _ _ hij) hx hy
  | retire => exact .of_retired hx hy
  | relabel hz tag priority share => exact .of_kept (.relabelRecord hz tag priority share rfl) hx hy
  | take d => exact .of_taken d _ hx hy
  | mask => exact .of_kept (.of_slots rfl) hx hy
  | offer hz => exact .of_kept (.openOffer hz _ rfl) hx hy
  | endOffer => exact .of_kept (.endOffer (fun _ => rfl) _) hx hy
  | expiry j => exact .of_expired (.expireAt identity_of_standing identity_firedRecord j) (.inr rfl) hx hy
  | @accept j z hz o ho =>
    obtain ⟨hmem, hrecord⟩ := offerOf_some ho
    by_cases hij : i = j
    · have hgeneration := congrArg Prod.fst (viewAt_acceptRecord id s j i z o.receiver)
      rw [if_pos hij] at hgeneration
      rw [recordAt_acceptRecord, if_pos hij] at hy
      subst hij
      cases hy
      cases hx.symm.trans hz
      exact ⟨hgeneration, .handed rfl hmem hrecord rfl rfl⟩
    · refine .of_view ?_ hx hy
      rw [viewAt_acceptRecord, if_neg hij]

theorem Change.livesOn (hfree : FreeSlotsLaw s) (hc : Change s c t) (hx : recordAt s i = some x)
    (hy : recordAt t i = some y) : LivesOn s t c i x y := by
  cases hc with
  | records hr => exact hr.livesOn hfree hx hy
  | startTime _ new => exact .of_kept (.startTime (fun _ _ => rfl) new _) hx hy
  | mark d => exact .of_kept (.markClient (fun _ => rfl) d) hx hy
  | portResetMarking p => exact .of_kept ((Kept.of_slots rfl).trans (.markClient (fun _ => rfl) p)) hx hy
  | advance =>
    exact .of_expired ((Kept.of_slots rfl).trans (.expireAll identity_of_standing identity_firedRecord _)) (.inl rfl) hx hy
  | @purge _ d _ _ j =>
    have hslots : (moveCursor (examineSlot s d j) d j).slots = (examineSlot s d j).slots := by
      unfold moveCursor
      split <;> rfl
    rw [recordAt_eq_of_slots hslots] at hy
    have hlives : LivesOn s (examineSlot s d j) c i x y := by
      unfold examineSlot at hy ⊢
      split at hy
      · exact .of_kept (.refl s) hx hy
      · split at hy
        · rw [if_pos ‹_›]
          exact .of_retired hx hy
        · rw [if_neg ‹_›]
          exact .of_kept (.refl s) hx hy
    rwa [LivesOn, hslots]
  | reset pins =>
    have hnone := recordAt_afterReset pins i
    generalize State.afterReset pins = u at hnone hy
    cases hnone.symm.trans hy
  | timeBase | quota | control | link | select | portReset => exact .of_kept (.of_slots rfl) hx hy

/-- A record live before and after a command lives on. -/
theorem livesOn_of_exec (hfree : FreeSlotsLaw s) (hexec : exec c s = .next t) (hx : recordAt s i = some x)
    (hy : recordAt t i = some y) : LivesOn s t c i x y := by
  obtain hc | ⟨r, code, payload, u, _, hc, _, _, rfl⟩ := exec_change hexec
  · exact hc.livesOn hfree hx hy
  · have hslots := post_slots u r code payload
    rw [recordAt_eq_of_slots hslots] at hy
    rw [LivesOn, hslots]
    exact hc.livesOn hfree hx hy

end

end Sys2Proof.Machine
end

section
/-! CERTIFICATE. The statements about the owners of records and about firings (01_records_and_handles.md,
04_record_modes.md). -/

namespace Sys2Proof.Claims

open Sys2Proof.Machine Sys2Proof.Safety

/-- Settles O16: of the ways in which a record lives on, only the hand-over of an ACCEPT changes its identity, and it gives the
record to the receiver of its offer. -/
theorem ownerChangesOnlyByAccept : Obligations.OwnerChangesOnlyByAccept := by
  intro c s t i x y hfree hexec hx hy
  obtain ⟨hgeneration, hlives⟩ := livesOn_of_exec hfree hexec hx hy
  have hsame (hidentity : y.identity = x.identity) : y.mode = x.mode ∧ y.owner = x.owner := Prod.mk.inj hidentity
  refine ⟨hgeneration, ?_⟩
  cases hlives with
  | stands hidentity | acknowledged hidentity | expired _ hidentity => exact ⟨(hsame hidentity).1, .inl (hsame hidentity).2⟩
  | @handed o hc ho hrecord hidentity =>
    obtain ⟨hmode, howner⟩ := Prod.mk.inj hidentity
    exact ⟨hmode, .inr ⟨hc, o, ho, hrecord, howner⟩⟩

/-- Settles O17: of the ways in which a record lives on, only an expiry writes its report but to acknowledge it. -/
theorem firingsOnlyAtExpiries : Obligations.FiringsOnlyAtExpiries := by
  intro c s t i x y hfree hexec hadvance hexpiry hx hy
  obtain ⟨_, hlives⟩ := livesOn_of_exec hfree hexec hx hy
  cases hlives with
  | stands _ hreport | handed _ _ _ _ hreport =>
    simp only [Rec.report, Prod.mk.injEq] at hreport
    obtain ⟨hu, hfirst, hoverrun, hlast⟩ := hreport
    exact ⟨hlast, fun hy => ⟨hu ▸ hy, hfirst, hoverrun⟩⟩
  | acknowledged _ hlast hu => exact ⟨hlast, fun hy => by rw [hu] at hy; cases hy⟩
  | expired hc => exact absurd hc (by simp [hadvance, hexpiry])

end Sys2Proof.Claims
end

section
/-! SUPPORT. The offer table against the offer fields of the records, and the free list against the FREE slots: every change keeps
the two in agreement. -/

namespace Sys2Proof.Machine

open Sys2Proof.Safety

/-! ### The agreement -/

/-- The offer field of the record in a slot, if it is not FREE. -/
def offeredAt (s : State) (i : SlotId) : Option Bool := (recordAt s i).map Rec.offered

/-- The free list and the offer table agree with the records: the part that `OfferLaw` and `AttentionLaw` share. -/
structure TablesAgree (s : State) : Prop where
  free : FreeSlotsLaw s
  table : OfferTableLaw s

section

variable {s t : State} {i : SlotId} {x y : Rec}

theorem offeredAt_eq (hx : recordAt s i = some x) : offeredAt s i = some x.offered := by rw [offeredAt, hx]; rfl

theorem TablesAgree.nodup (h : TablesAgree s) : (s.offers.map Offer.record).Nodup := h.table.1

theorem TablesAgree.offered_iff (h : TablesAgree s) (i : SlotId) :
    offeredAt s i = some true ↔ i ∈ s.offers.map Offer.record := h.table.2 i

/-- The record of an offer is live and its offer field is present. -/
theorem TablesAgree.offered_of_mem (h : TablesAgree s) {o : Offer} (ho : o ∈ s.offers) :
    offeredAt s o.record = some true := (h.offered_iff _).2 (List.mem_map_of_mem ho)

/-! ### Changes that keep the agreement -/

theorem freeSlotsLaw_congr {α : Type} {f : Rec → α} (h : FreeSlotsLaw s) (hkept : Kept f s t)
    (hfree : t.freeList = s.freeList) : FreeSlotsLaw t := by
  obtain ⟨hnodup, hnone⟩ := h
  exact ⟨hfree ▸ hnodup, fun j hj => (hkept.recordAt_eq_none j).2 (hnone j (hfree ▸ hj))⟩

/-- The offer fields and the records offered stand. -/
theorem TablesAgree.congr (h : TablesAgree s) (hkept : Kept Rec.offered s t) (hfree : t.freeList = s.freeList)
    (hoffers : t.offers.map Offer.record = s.offers.map Offer.record) : TablesAgree t where
  free := freeSlotsLaw_congr h.free hkept hfree
  table := by
    refine ⟨hoffers ▸ h.nodup, fun j => ?_⟩
    rw [show (recordAt t j).map Rec.offered = (recordAt s j).map Rec.offered from hkept.map_eq j, hoffers]
    exact h.offered_iff j

/-- The offers of one record leave the table, and its offer field goes, or the record itself (R136). -/
theorem TablesAgree.ended (h : TablesAgree s) (hfree : FreeSlotsLaw t)
    (hoffers : t.offers = s.offers.filter fun o => decide (o.record ≠ i)) (hself : offeredAt t i ≠ some true)
    (hother : ∀ j, j ≠ i → offeredAt t j = offeredAt s j) : TablesAgree t where
  free := hfree
  table := by
    refine ⟨hoffers ▸ (List.filter_sublist.map _).nodup h.nodup, fun j => ?_⟩
    have hmem : j ∈ t.offers.map Offer.record ↔ j ∈ s.offers.map Offer.record ∧ j ≠ i := by
      simp only [hoffers, List.mem_map, List.mem_filter, decide_eq_true_eq]
      constructor
      · rintro ⟨o, ⟨ho, hne⟩, rfl⟩
        exact ⟨⟨o, ho, rfl⟩, hne⟩
      · rintro ⟨⟨o, ho, rfl⟩, hne⟩
        exact ⟨o, ⟨ho, hne⟩, rfl⟩
    rw [hmem]
    by_cases hj : j = i
    · subst hj
      exact ⟨fun htrue => absurd htrue hself, fun hn => absurd rfl hn.2⟩
    · rw [← h.offered_iff, ← hother j hj]
      exact ⟨fun htrue => ⟨htrue, hj⟩, And.left⟩

/-- The record of an offer that ends loses its offer field. -/
theorem TablesAgree.endOffer (h : TablesAgree s) (o : Offer) : TablesAgree (endOffer s o) := by
  have hkept : Kept Rec.identity s (Machine.endOffer s o) := .endOffer (fun _ => rfl) o
  refine h.ended (i := o.record) (freeSlotsLaw_congr h.free hkept (endOffer_freeList s o)) (endOffer_offers s o) ?_
    fun j hj => ?_
  · rw [offeredAt, recordAt_endOffer, if_pos rfl, Option.map_map]
    cases recordAt s o.record <;> simp
  · rw [offeredAt, recordAt_endOffer, if_neg hj]
    rfl

theorem TablesAgree.endOffers (h : TablesAgree s) (l : List Offer) : TablesAgree (endOffers s l) := by
  induction l generalizing s with
  | nil => exact h
  | cons o rest ih => exact ih (h.endOffer o)

theorem TablesAgree.markClient (h : TablesAgree s) (c : Client) : TablesAgree (markClient s c) := by
  have hmarked : TablesAgree { s with purging := s.purging.set c true } := h.congr (.of_slots rfl) rfl rfl
  exact (hmarked.endOffers (offersOf s c)).congr (.of_slots rfl) rfl rfl

theorem TablesAgree.retireRecord (h : TablesAgree s) (hx : recordAt s i = some x) : TablesAgree (retireRecord s i x) := by
  refine h.ended (i := i) (freeSlotsLaw_retireRecord h.free hx) (retireRecord_offers s i x) ?_ fun j hj => ?_
  · rw [offeredAt, recordAt_retireRecord, if_pos rfl]
    simp
  · rw [offeredAt, recordAt_retireRecord, if_neg hj]
    rfl

theorem acceptRecord_offers (s : State) (i : SlotId) (x : Rec) (c : Client) :
    (acceptRecord s i x c).offers = s.offers.filter fun o => decide (o.record ≠ i) := by
  unfold acceptRecord moveEntry
  dsimp only
  split <;> exact removeOffer_offers s i

theorem TablesAgree.acceptRecord (h : TablesAgree s) (hx : recordAt s i = some x) (c : Client) :
    TablesAgree (acceptRecord s i x c) := by
  have hother : ∀ j, j ≠ i → recordAt (Machine.acceptRecord s i x c) j = recordAt s j := fun j hj => by
    rw [recordAt_acceptRecord, if_neg hj]
  refine h.ended (i := i) (freeSlotsLaw_of_live h.free hx (acceptRecord_freeList s i x c) hother)
    (acceptRecord_offers s i x c) ?_ fun j hj => by rw [offeredAt, hother j hj]; rfl
  rw [offeredAt, recordAt_acceptRecord, if_pos rfl]
  simp

/-- An OFFER opens the only offer of its record (R139). -/
theorem TablesAgree.openOffer (h : TablesAgree s) (hx : recordAt s i = some x) {o : Offer} (ho : Opens s i x o) :
    TablesAgree (openOffer s i x o) := by
  have hkept : Kept Rec.identity s (Machine.openOffer s i x o) := .openOffer hx o rfl
  have hnew : i ∉ s.offers.map Offer.record := fun hi => by
    have htrue := (h.offered_iff i).2 hi
    rw [offeredAt_eq hx, ho.unoffered] at htrue
    cases htrue
  have hoffers : (Machine.openOffer s i x o).offers.map Offer.record = s.offers.map Offer.record ++ [i] := by
    rw [← ho.record]
    exact List.map_append
  have hrecord : ∀ j, recordAt (Machine.openOffer s i x o) j =
      if j = i then some { x with offered := true } else recordAt s j := fun j =>
    recordAt_putRecord { s with offers := s.offers ++ [o] } i j { x with offered := true }
  refine ⟨freeSlotsLaw_congr h.free hkept rfl, ?_, fun j => ?_⟩
  · rw [hoffers]
    exact List.nodup_append.2 ⟨h.nodup, List.nodup_singleton i, fun a ha b hb hab => hnew (by simp_all)⟩
  · rw [hoffers, List.mem_append, List.mem_singleton, hrecord]
    split
    · next hj => simp [hj]
    · next hj =>
      rw [← h.offered_iff]
      simp [offeredAt, hj]

/-- A record just created is not offered, and its slot had no offer (R13). -/
theorem TablesAgree.create (h : TablesAgree s) {rest : List SlotId} (hfree : s.freeList = i :: rest) {new : Rec}
    (hnew : new.offered = false) (c : Client) (n : Nat) :
    TablesAgree (putOwned (putRecord { s with freeList := rest } i new) c n) := by
  obtain ⟨hnodup, hnone⟩ := h.free
  have hempty : recordAt s i = none := hnone i (hfree ▸ List.mem_cons_self)
  rw [hfree] at hnodup hnone
  obtain ⟨hhead, hrest⟩ := List.nodup_cons.1 hnodup
  have hself : recordAt (putOwned (putRecord { s with freeList := rest } i new) c n) i = some new :=
    recordAt_putRecord_self _ i new
  have hother : ∀ j, j ≠ i → recordAt (putOwned (putRecord { s with freeList := rest } i new) c n) j = recordAt s j :=
    fun j hj => recordAt_putRecord_of_ne _ new hj
  have hunoffered : ∀ o ∈ s.offers, o.record ≠ i := fun o ho hi => by
    have htrue := h.offered_of_mem ho
    rw [hi, offeredAt, hempty] at htrue
    cases htrue
  refine h.ended (i := i) ⟨hrest, fun j hj => ?_⟩ ?_ ?_ fun j hj => by rw [offeredAt, hother j hj]; rfl
  · rw [hother j fun hji => hhead (hji ▸ hj)]
    exact hnone j (List.mem_cons_of_mem i hj)
  · refine (List.filter_eq_self.2 fun o ho => ?_).symm
    simpa using hunoffered o ho
  · rw [offeredAt_eq hself, hnew]
    simp

theorem tablesAgree_afterReset (pins : Pins) : TablesAgree (State.afterReset pins) where
  free := freeSlotsLaw_of_accountLaw (accountLaw_afterReset pins)
  table := ⟨List.nodup_nil, fun i => by
    rw [recordAt_afterReset]
    simp only [Option.map_none, reduceCtorEq, State.afterReset, List.map_nil, List.not_mem_nil]⟩

theorem offered_of_standing (x y : Rec) (h : x.standing = y.standing) : x.offered = y.offered :=
  congrArg Standing.offered h

theorem offered_firedRecord (now : Time) (r : Rec) : (firedRecord now r).offered = r.offered := by
  unfold firedRecord; split <;> rfl

/-! ### Every change -/

theorem TablesAgree.recordChange {c : Instr} (h : TablesAgree s) (hc : RecordChange s c t) : TablesAgree t := by
  cases hc with
  | quiet hq => exact h.congr (hq.held.comp Standing.offered) hq.freeList (by rw [hq.offers])
  | create hfree => exact h.create hfree rfl _ _
  | retire hx => exact h.retireRecord hx
  | relabel hx tag priority share =>
    refine h.congr (.relabelRecord hx tag priority share rfl) ?_ ?_ <;>
      (unfold relabelRecord; dsimp only; split <;> rfl)
  | take d =>
    exact h.congr ((Kept.takeEntries (fun _ => rfl) d _).trans (.of_slots rfl)) (by simp) (by simp)
  | mask d => exact h.congr (.of_slots rfl) rfl rfl
  | offer hx ho => exact h.openOffer hx ho
  | accept hx => exact h.acceptRecord hx _
  | endOffer => exact h.endOffer _
  | expiry i => exact h.congr (.expireAt offered_of_standing offered_firedRecord i) (by simp) (by simp)

theorem TablesAgree.examineSlot (h : TablesAgree s) (d : Client) (i : SlotId) : TablesAgree (examineSlot s d i) := by
  unfold Machine.examineSlot
  split
  · exact h
  · next hx =>
    split
    · exact h.retireRecord hx
    · exact h

theorem TablesAgree.change {c : Instr} (h : TablesAgree s) (hc : Change s c t) : TablesAgree t := by
  cases hc with
  | records hr => exact h.recordChange hr
  | startTime _ new =>
    refine h.congr (.startTime (fun _ _ => rfl) new _) rfl ?_
    show (s.offers.map _).map Offer.record = _
    rw [List.map_map]
    rfl
  | mark d => exact h.markClient d
  | portResetMarking p =>
    have hreset : TablesAgree (assertPortReset s p) := h.congr (.of_slots rfl) rfl rfl
    exact hreset.markClient p
  | advance =>
    exact h.congr ((Kept.of_slots rfl).trans (.expireAll offered_of_standing offered_firedRecord _)) (by simp [tick])
      (by simp [tick])
  | @purge _ d _ _ i =>
    unfold moveCursor
    split <;> exact (h.examineSlot d i).congr (.of_slots rfl) rfl rfl
  | reset pins =>
    have hreset := tablesAgree_afterReset pins
    generalize State.afterReset pins = u at hreset ⊢
    exact hreset.congr (.of_slots rfl) rfl rfl
  | timeBase | quota | control | link | select | portReset => exact h.congr (.of_slots rfl) rfl rfl

end

end Sys2Proof.Machine
end

section
/-! SUPPORT. The laws of the offer table: what an open offer says of its record and of its two clients, and how long it lasts. -/

namespace Sys2Proof.Machine

open Sys2Proof.Safety

variable {s t : State}

theorem tablesAgree_of_offerLaw (h : OfferLaw s) : TablesAgree s := by
  obtain ⟨hfree, htable, _⟩ := h
  exact ⟨hfree, htable⟩

/-! ### Changes that open no offer -/

/-- Offers that are left over from a lawful table stay lawful while their records keep their owners, their clients stay NORMAL
and table time stands. -/
theorem offerLaw_of_sublist (h : OfferLaw s) (ht : TablesAgree t) (hsub : t.offers.Sublist s.offers)
    (howner : ∀ o ∈ t.offers, ownerAt t o.record = ownerAt s o.record) (htime : t.tableTime = s.tableTime)
    (hnormal : ∀ o ∈ t.offers, ∀ c, c = o.giver ∨ c = o.receiver → s.purging.get c = false → t.purging.get c = false) :
    OfferLaw t := by
  obtain ⟨_, _, hroom, heach⟩ := h
  refine ⟨ht.free, ht.table, hsub.length_le.trans hroom, fun o ho => ?_⟩
  obtain ⟨hgiver, hother, hgiverNormal, hreceiverNormal, hticks⟩ := heach o (hsub.subset ho)
  exact ⟨(howner o ho).trans hgiver, hother, hnormal o ho _ (.inl rfl) hgiverNormal,
    hnormal o ho _ (.inr rfl) hreceiverNormal, htime ▸ hticks⟩

/-- A change that keeps every owner, the purge states and table time. -/
theorem offerLaw_of_kept (h : OfferLaw s) (ht : TablesAgree t) (hsub : t.offers.Sublist s.offers)
    (hkept : Kept Rec.identity s t) (htime : t.tableTime = s.tableTime) (hpurging : t.purging = s.purging) :
    OfferLaw t :=
  offerLaw_of_sublist h ht hsub (fun o _ => ownerAt_of_kept hkept o.record) htime fun _ _ c _ hc => by rwa [hpurging]

/-- A change of one record whose offers, if it had any, are over. -/
theorem offerLaw_of_ended {i : SlotId} (h : OfferLaw s) (ht : TablesAgree t) (hsub : t.offers.Sublist s.offers)
    (hgone : ∀ o ∈ t.offers, o.record ≠ i) (hother : ∀ j, j ≠ i → recordAt t j = recordAt s j)
    (htime : t.tableTime = s.tableTime) (hpurging : t.purging = s.purging) : OfferLaw t :=
  offerLaw_of_sublist h ht hsub (fun o ho => congrArg (Option.map Rec.owner) (hother o.record (hgone o ho))) htime
    fun _ _ c _ hc => by rwa [hpurging]

theorem ne_of_mem_filter_record {i : SlotId} {l : List Offer} {o : Offer}
    (ho : o ∈ l.filter fun q => decide (q.record ≠ i)) : o.record ≠ i := of_decide_eq_true (List.mem_filter.1 ho).2

/-- An OFFER opens a lawful offer (R138, R139). -/
theorem offerLaw_openOffer (h : OfferLaw s) {i : SlotId} {x : Rec} (hx : recordAt s i = some x) {o : Offer}
    (ho : Opens s i x o) : OfferLaw (openOffer s i x o) := by
  have ht := (tablesAgree_of_offerLaw h).openOffer hx ho
  have hkept : Kept Rec.identity s (openOffer s i x o) := .openOffer hx o rfl
  obtain ⟨_, _, _, heach⟩ := h
  refine ⟨ht.free, ht.table, ?_, fun q hq => ?_⟩
  · show (s.offers ++ [o]).length ≤ _
    rw [List.length_append]
    exact ho.room
  · have howner := ownerAt_of_kept hkept q.record
    rw [ownerAt] at howner
    rw [howner]
    obtain hold | hnew := List.mem_append.1 hq
    · exact heach q hold
    · cases List.mem_singleton.1 hnew
      refine ⟨?_, ho.receiver, ho.giverNormal, ho.receiverNormal, ho.lapse⟩
      rw [ho.record, ownerAt_eq hx, ho.giver]

theorem offerLaw_recordChange {c : Instr} (h : OfferLaw s) (hc : RecordChange s c t) : OfferLaw t := by
  have ht := (tablesAgree_of_offerLaw h).recordChange hc
  cases hc with
  | quiet hq => exact offerLaw_of_kept h ht (by rw [hq.offers]) hq.identity hq.tableTime hq.purging
  | @create i rest hfree =>
    have ⟨⟨_, hnone⟩, _⟩ := h
    have hempty : recordAt s i = none := hnone i (hfree ▸ List.mem_cons_self)
    refine offerLaw_of_ended (i := i) h ht (List.Sublist.refl _) (fun o ho hi => ?_)
      (fun j hj => recordAt_putRecord_of_ne _ _ hj) rfl rfl
    have htrue := (tablesAgree_of_offerLaw h).offered_of_mem ho
    rw [hi, offeredAt, hempty] at htrue
    cases htrue
  | @retire i x hx =>
    have hoffers := retireRecord_offers s i x
    exact offerLaw_of_ended (i := i) h ht (hoffers ▸ List.filter_sublist)
      (fun o ho => ne_of_mem_filter_record (hoffers ▸ ho)) (fun j hj => by rw [recordAt_retireRecord, if_neg hj])
      (by simp) (by simp)
  | @accept i x hx o =>
    have hoffers := acceptRecord_offers s i x o.receiver
    have houtside := SameOutside.acceptRecord s i x o.receiver
    exact offerLaw_of_ended (i := i) h ht (hoffers ▸ List.filter_sublist)
      (fun o ho => ne_of_mem_filter_record (hoffers ▸ ho)) (fun j hj => by rw [recordAt_acceptRecord, if_neg hj])
      houtside.tableTime houtside.purging
  | @relabel i x hx tag priority share =>
    have houtside := SameOutside.relabelRecord s i x tag priority share
    have hoffers : (relabelRecord s i x tag priority share).offers = s.offers := by
      unfold relabelRecord; dsimp only; split <;> rfl
    exact offerLaw_of_kept h ht (hoffers ▸ List.Sublist.refl _) (.relabelRecord hx tag priority share rfl)
      houtside.tableTime houtside.purging
  | take d =>
    exact offerLaw_of_kept h ht (by simp) ((Kept.takeEntries (fun _ => rfl) d _).trans (.of_slots rfl)) (by simp) (by simp)
  | mask d => exact offerLaw_of_kept h ht (List.Sublist.refl _) (.of_slots rfl) rfl rfl
  | offer hx ho => exact offerLaw_openOffer h hx ho
  | endOffer =>
    exact offerLaw_of_kept h ht (endOffer_offers s _ ▸ List.filter_sublist) (.endOffer (fun _ => rfl) _) (by simp) (by simp)
  | expiry i =>
    exact offerLaw_of_kept h ht (by simp) (.expireAt identity_of_standing identity_firedRecord i) (by simp) (by simp)

/-! ### Markings (R190) -/

theorem endOffers_offers_sublist (s : State) (l : List Offer) : (endOffers s l).offers.Sublist s.offers := by
  induction l generalizing s with
  | nil => exact List.Sublist.refl _
  | cons o rest ih =>
    have hended : (endOffer s o).offers.Sublist s.offers := endOffer_offers s o ▸ List.filter_sublist
    exact (ih _).trans hended

/-- No offer of a client outlasts its marking. -/
theorem offers_of_markClient {c : Client} {o : Offer} (ho : o ∈ (markClient s c).offers) :
    o.giver ≠ c ∧ o.receiver ≠ c := by
  have hmem : o ∈ (endOffers { s with purging := s.purging.set c true } (offersOf s c)).offers := ho
  obtain ⟨hin, hleft⟩ := mem_endOffers_offers.1 hmem
  have hends (h : o.giver = c ∨ o.receiver = c) : False :=
    hleft (List.mem_map_of_mem (List.mem_filter.2 ⟨hin, decide_eq_true h⟩))
  exact ⟨fun h => hends (.inl h), fun h => hends (.inr h)⟩

theorem offerLaw_markClient (h : OfferLaw s) (c : Client) : OfferLaw (markClient s c) := by
  refine offerLaw_of_sublist h ((tablesAgree_of_offerLaw h).markClient c) (endOffers_offers_sublist _ _)
    (fun o _ => ownerAt_of_kept (.markClient (fun _ => rfl) c) o.record) (by simp) fun o ho d hd hnormal => ?_
  obtain ⟨hgiver, hreceiver⟩ := offers_of_markClient ho
  have hdc : d ≠ c := by obtain rfl | rfl := hd <;> assumption
  rwa [markClient_purging, Table.get_set_of_ne _ _ hdc]

/-! ### The step of table time, and START-TIME -/

/-- An advance is taken only while every offer lies 2 ticks ahead at least (R51). -/
theorem offerLaw_tick (h : OfferLaw s) (hdue : advanceDue s = true) : OfferLaw (tick s) := by
  have ht : TablesAgree (tick s) := (tablesAgree_of_offerLaw h).congr (.of_slots rfl) rfl rfl
  obtain ⟨_, _, hroom, heach⟩ := h
  refine ⟨ht.free, ht.table, hroom, fun o ho => ?_⟩
  obtain ⟨hgiver, hother, hgiverNormal, hreceiverNormal, hpos, hmax⟩ := heach o ho
  have hlast : ahead s.tableTime o.lapse ≠ 1 := fun hone => by
    rw [advanceDue, Bool.and_eq_true, Bool.not_eq_true', List.any_eq_false] at hdue
    obtain ⟨_, hnone⟩ := hdue
    exact hnone o ho (decide_eq_true hone)
  have hnearer : ahead (tick s).tableTime o.lapse = ahead s.tableTime o.lapse - 1 := ahead_succ hpos
  exact ⟨hgiver, hother, hgiverNormal, hreceiverNormal, by omega, by omega⟩

/-- A START-TIME keeps the distance of every lapse (R37). -/
theorem offerLaw_startTime (h : OfferLaw s) {new : Time} {n : Nat} (ht : TablesAgree (startTime s new n)) :
    OfferLaw (startTime s new n) := by
  have hkept : Kept Rec.identity s (startTime s new n) := .startTime (fun _ _ => rfl) new n
  have hoffers : (startTime s new n).offers =
      s.offers.map fun o => { o with lapse := o.lapse + (new - s.tableTime) } := rfl
  obtain ⟨_, _, hroom, heach⟩ := h
  refine ⟨ht.free, ht.table, by rwa [hoffers, List.length_map], fun q hq => ?_⟩
  rw [hoffers] at hq
  obtain ⟨o, ho, rfl⟩ := List.mem_map.1 hq
  obtain ⟨hgiver, hother, hgiverNormal, hreceiverNormal, hticks⟩ := heach o ho
  refine ⟨(ownerAt_of_kept hkept o.record).trans hgiver, hother, hgiverNormal, hreceiverNormal, ?_⟩
  show 1 ≤ ahead new _ ∧ ahead new _ ≤ _
  rwa [ahead_rebase]

/-! ### Every change -/

theorem offerLaw_afterReset (pins : Pins) : OfferLaw (State.afterReset pins) := by
  have ht := tablesAgree_afterReset pins
  have hnone : (State.afterReset pins).offers = [] := rfl
  refine ⟨ht.free, ht.table, ?_, ?_⟩
  · rw [hnone]
    exact Nat.zero_le _
  · rw [hnone]
    simp

theorem offerLaw_change {c : Instr} (h : OfferLaw s) (hc : Change s c t) : OfferLaw t := by
  have hagree := tablesAgree_of_offerLaw h
  have ht := hagree.change hc
  cases hc with
  | records hr => exact offerLaw_recordChange h hr
  | startTime => exact offerLaw_startTime h ht
  | mark d => exact offerLaw_markClient h d
  | portReset p => exact offerLaw_of_kept h ht (List.Sublist.refl _) (.of_slots rfl) rfl rfl
  | portResetMarking p =>
    have hreset : OfferLaw (assertPortReset s p) :=
      offerLaw_of_kept h (hagree.congr (.of_slots rfl) rfl rfl) (List.Sublist.refl _) (.of_slots rfl) rfl rfl
    exact offerLaw_markClient hreset p
  | advance hdue =>
    exact offerLaw_of_kept (offerLaw_tick h hdue) ht (by simp)
      (.expireAll identity_of_standing identity_firedRecord _) (by simp) (by simp)
  | @purge _ d _ _ i =>
    have hexamined : OfferLaw (examineSlot s d i) := by
      unfold examineSlot
      split
      · exact h
      · next hx =>
        split
        · exact offerLaw_recordChange h (.retire hx)
        · exact h
    unfold moveCursor at ht ⊢
    split at ht
    · rw [dif_pos ‹_›]
      exact offerLaw_of_kept hexamined ht (List.Sublist.refl _) (.of_slots rfl) rfl rfl
    · rw [dif_neg ‹_›]
      refine offerLaw_of_sublist hexamined ht (List.Sublist.refl _) (fun _ _ => rfl) rfl fun _ _ e _ he => ?_
      show ((examineSlot s d i).purging.set d false).get e = false
      rw [Table.get_set, he, ite_self]
  | reset pins =>
    have hreset := offerLaw_afterReset pins
    generalize State.afterReset pins = u at hreset ht ⊢
    exact offerLaw_of_kept hreset ht (List.Sublist.refl _) (.of_slots rfl) rfl rfl
  | timeBase | quota | control | link | select =>
    exact offerLaw_of_kept h ht (List.Sublist.refl _) (.of_slots rfl) rfl rfl

end Sys2Proof.Machine
end

section
/-! CERTIFICATE. The law of the offer table as every command leaves it (08_handing_over_records.md). -/

namespace Sys2Proof.Claims

open Sys2Proof.Machine Sys2Proof.Safety

/-- Settles O11: an OFFER opens a lawful offer, and every other change only ends offers or leaves them, with the owners of their
records and the NORMAL state of their clients; a marking ends every offer of its client. An advance is not taken while an offer is
at its last tick, and START-TIME moves the lapse times with table time. -/
theorem offerLawKept : Obligations.OfferLawKept :=
  keptByStep_of_change (fun _ _ h => h)
    (fun s r code payload h =>
      offerLaw_of_kept h ((tablesAgree_of_offerLaw h).congr (.of_slots (post_slots s r code payload)) (by simp) (by simp))
        (by simp) (.of_slots (post_slots s r code payload)) (by simp) (by simp))
    fun _ _ _ h hc => offerLaw_change h hc

end Sys2Proof.Claims
end

section
/-! SUPPORT. The attention sets against the records that stand unacknowledged: one lemma for a change of one record and of its
place in the sets, and from it what every operation leaves of the sets and the ATTN lines. -/

namespace Sys2Proof.Machine

open Sys2Proof.Safety

/-! ### The agreement -/

/-- The client in whose attention set a record belongs, if it is unacknowledged (R119). -/
def Rec.claimant (r : Rec) : Option Client := if r.unacknowledged = true then some r.owner else none

/-- The fields of a record that its place in an attention set depends on. -/
def Rec.claim (r : Rec) : Option Client × Fin 4 := (r.claimant, r.priority)

/-- The client in whose attention set the record in a slot belongs. -/
def claimantAt (s : State) (i : SlotId) : Option Client := (recordAt s i).bind Rec.claimant

/-- The attention sets hold the records that belong in them, once each, in order, and the masks are in range: `AttentionLaw` but
for the lines. -/
structure SetsAgree (s : State) : Prop where
  tables : TablesAgree s
  nodup : ∀ c, (s.attn.get c).set.Nodup
  mem : ∀ c i, i ∈ (s.attn.get c).set ↔ claimantAt s i = some c
  ordered : ∀ c, (s.attn.get c).set.Pairwise fun i j => priorityAt s j ≤ priorityAt s i
  mask : ∀ c, (s.attn.get c).mask ≤ 4

section

variable {s t : State} {i : SlotId} {x y : Rec}

theorem claimantAt_eq (hx : recordAt s i = some x) : claimantAt s i = x.claimant := by rw [claimantAt, hx]; rfl

theorem claimantAt_of_none (hx : recordAt s i = none) : claimantAt s i = none := by rw [claimantAt, hx]; rfl

theorem claimantAt_congr (h : recordAt t i = recordAt s i) : claimantAt t i = claimantAt s i := by
  rw [claimantAt, claimantAt, h]

theorem claimantAt_eq_some {c : Client} :
    claimantAt s i = some c ↔ ∃ r, recordAt s i = some r ∧ r.owner = c ∧ r.unacknowledged = true := by
  unfold claimantAt Rec.claimant
  cases recordAt s i with
  | none => simp
  | some r => by_cases hu : r.unacknowledged = true <;> simp [hu]

theorem attentionLaw_iff : AttentionLaw s ↔ SetsAgree s ∧ LinesFollow s := by
  constructor
  · rintro ⟨hfree, htable, hnodup, hmem, hordered, hmask, hlines⟩
    exact ⟨⟨⟨hfree, htable⟩, hnodup, fun c i => (hmem c i).trans claimantAt_eq_some.symm, hordered, hmask⟩, hlines⟩
  · rintro ⟨⟨⟨hfree, htable⟩, hnodup, hmem, hordered, hmask⟩, hlines⟩
    exact ⟨hfree, htable, hnodup, fun c i => (hmem c i).trans claimantAt_eq_some, hordered, hmask, hlines⟩

theorem Kept.claimantAt (h : Kept Rec.claim s t) (i : SlotId) : claimantAt t i = claimantAt s i := by
  have hbind : ∀ u : State, Machine.claimantAt u i = ((recordAt u i).map Rec.claim).bind Prod.fst := fun u => by
    unfold Machine.claimantAt
    cases recordAt u i <;> rfl
  rw [hbind, hbind, h.map_eq]

theorem priorityAt_of_kept (h : Kept Rec.priority s t) (i : SlotId) : priorityAt t i = priorityAt s i := by
  have hmap : ∀ u : State, priorityAt u i = ((recordAt u i).map Rec.priority).elim 0 Fin.val := fun u => by
    unfold priorityAt
    cases recordAt u i <;> rfl
  rw [hmap, hmap, h.map_eq]

theorem Kept.priority (h : Kept Rec.claim s t) : Kept Rec.priority s t := h.comp Prod.snd

/-! ### Sets -/

/-- The sets and the claims on them stand. -/
theorem SetsAgree.congr (h : SetsAgree s) (ht : TablesAgree t) (hkept : Kept Rec.claim s t)
    (hset : ∀ c, (t.attn.get c).set = (s.attn.get c).set) (hmask : ∀ c, (t.attn.get c).mask ≤ 4) : SetsAgree t where
  tables := ht
  nodup c := hset c ▸ h.nodup c
  mem c i := by rw [hset, h.mem, hkept.claimantAt]
  ordered c := by
    rw [hset]
    exact (h.ordered c).imp fun hle => by rwa [priorityAt_of_kept hkept.priority, priorityAt_of_kept hkept.priority]
  mask := hmask

/-- Where the record in slot `i` belongs decides where its entry stands: at the tail of its group in its claimant's set, and in no
other set (R119). -/
def Placed (s t : State) (i : SlotId) : Prop :=
  ∀ c, (t.attn.get c).set =
    if claimantAt t i = some c then joinGroup (priorityAt t) i (dropSlot i (s.attn.get c).set)
    else dropSlot i (s.attn.get c).set

/-- A change of one record, with its entry placed accordingly. -/
theorem SetsAgree.update (h : SetsAgree s) (ht : TablesAgree t) (hother : ∀ j, j ≠ i → recordAt t j = recordAt s j)
    (hplaced : Placed s t i) (hmask : ∀ c, (t.attn.get c).mask ≤ 4) : SetsAgree t := by
  have hdropped : ∀ c, (dropSlot i (s.attn.get c).set).Nodup := fun c => (dropSlot_sublist _ _).nodup (h.nodup c)
  have hnew : ∀ c, i ∉ dropSlot i (s.attn.get c).set := fun c hi => (mem_dropSlot.1 hi).2 rfl
  have hordered : ∀ c, (dropSlot i (s.attn.get c).set).Pairwise fun j k => priorityAt t k ≤ priorityAt t j := fun c => by
    refine ((h.ordered c).sublist (dropSlot_sublist i _)).imp_of_mem fun {j k} hj hk hle => ?_
    rwa [priorityAt_congr (hother j (mem_dropSlot.1 hj).2), priorityAt_congr (hother k (mem_dropSlot.1 hk).2)]
  refine ⟨ht, fun c => ?_, fun c j => ?_, fun c => ?_, hmask⟩
  · rw [hplaced c]
    split
    · exact (joinGroup_perm _ _ _).nodup_iff.2 (List.nodup_cons.2 ⟨hnew c, hdropped c⟩)
    · exact hdropped c
  · rw [hplaced c]
    by_cases hj : j = i
    · subst hj
      split <;> simp [*]
    · rw [claimantAt_congr (hother j hj), ← h.mem]
      split <;> simp [hj]
  · rw [hplaced c]
    split
    · exact joinGroup_pairwise _ _ (hordered c)
    · exact hordered c

/-- An entry stands in its claimant's set alone. -/
theorem SetsAgree.not_mem_of_claimant (h : SetsAgree s) {c : Client} (hc : claimantAt s i ≠ some c) :
    i ∉ (s.attn.get c).set := fun hi => hc ((h.mem c i).1 hi)

/-! ### Lines -/

/-- A client whose set, mask, priorities and incoming offers stand, and whose line followed R124, has a line that follows it. -/
theorem line_follows_of_stands {d : Client} (h : LinesFollow s) (hattn : t.attn.get d = s.attn.get d)
    (hprio : ∀ j ∈ (s.attn.get d).set, priorityAt t j = priorityAt s j)
    (hoffer : incomingOffer t d = incomingOffer s d) : (t.attn.get d).line = attnAsserts t d := by
  rw [attnAsserts_congr (by rw [hattn]) (by rw [hattn]) hprio hoffer, hattn]
  exact h d

/-- Every client's set, mask, priorities and incoming offers stand. -/
theorem linesFollow_of_kept (h : LinesFollow s) (hkept : Kept Rec.priority s t) (hattn : t.attn = s.attn)
    (hoffer : ∀ d, incomingOffer t d = incomingOffer s d) : LinesFollow t := fun d =>
  line_follows_of_stands h (by rw [hattn]) (fun j _ => priorityAt_of_kept hkept j) (hoffer d)

/-- A change of one record leaves the line of a client in whose set it does not stand. -/
theorem line_follows_of_other {d : Client} (h : LinesFollow s) (hattn : t.attn.get d = s.attn.get d)
    (hother : ∀ j, j ≠ i → recordAt t j = recordAt s j) (hi : i ∉ (s.attn.get d).set)
    (hoffer : incomingOffer t d = incomingOffer s d) : (t.attn.get d).line = attnAsserts t d :=
  line_follows_of_stands h hattn (fun j hj => priorityAt_congr (hother j fun hji => hi (hji ▸ hj))) hoffer

/-! ### Laws together -/

theorem attentionLaw_congr (h : AttentionLaw s) (ht : TablesAgree t) (hkept : Kept Rec.claim s t)
    (hattn : t.attn = s.attn) (hoffer : ∀ d, incomingOffer t d = incomingOffer s d) : AttentionLaw t := by
  obtain ⟨hsets, hlines⟩ := attentionLaw_iff.1 h
  exact attentionLaw_iff.2 ⟨hsets.congr ht hkept (fun c => by rw [hattn]) (fun c => by rw [hattn]; exact hsets.mask c),
    linesFollow_of_kept hlines hkept.priority hattn hoffer⟩

/-- A recomputation of one line keeps the sets, and makes that line follow. -/
theorem attentionLaw_refreshAttn {u : State} (hsets : SetsAgree u) {c : Client}
    (hlines : ∀ d, d ≠ c → (u.attn.get d).line = attnAsserts u d) : AttentionLaw (refreshAttn u c) := by
  refine attentionLaw_iff.2 ⟨?_, refreshAttn_linesFollow hlines⟩
  refine hsets.congr (hsets.tables.congr (.of_slots rfl) rfl rfl) (.of_slots rfl) (refreshAttn_get_set u c) fun d => ?_
  rw [refreshAttn_get_mask]
  exact hsets.mask d

end

end Sys2Proof.Machine
end

section
/-! SUPPORT. The attention law as each change leaves it. -/

namespace Sys2Proof.Machine

open Sys2Proof.Safety

section

variable {s t u : State} {i : SlotId} {x : Rec} {c giver : Client}

theorem setsAgree_of_attentionLaw (h : AttentionLaw s) : SetsAgree s := (attentionLaw_iff.1 h).1

theorem SetsAgree.refreshAttn (h : SetsAgree s) (c : Client) : SetsAgree (refreshAttn s c) :=
  h.congr (h.tables.congr (.of_slots rfl) rfl rfl) (.of_slots rfl) (refreshAttn_get_set s c) fun d => by
    rw [refreshAttn_get_mask]
    exact h.mask d

theorem refreshAttn_line_self (s : State) (c : Client) :
    ((refreshAttn s c).attn.get c).line = attnAsserts (refreshAttn s c) c := by
  rw [attnAsserts_refreshAttn, refreshAttn_attn, Table.get_set_self]

theorem refreshAttn_get_of_ne (s : State) {c d : Client} (h : d ≠ c) : (refreshAttn s c).attn.get d = s.attn.get d := by
  rw [refreshAttn_attn, Table.get_set_of_ne _ _ h]

/-- A recomputation leaves a line that followed. -/
theorem refreshAttn_line {d : Client} (h : (s.attn.get d).line = attnAsserts s d) (c : Client) :
    ((refreshAttn s c).attn.get d).line = attnAsserts (refreshAttn s c) d := by
  by_cases hd : d = c
  · rw [hd]
    exact refreshAttn_line_self s c
  · rw [attnAsserts_refreshAttn, refreshAttn_get_of_ne s hd]
    exact h

/-! ### Entries that join and leave -/

theorem joinSet_get_set (s : State) (c d : Client) (i : SlotId) :
    ((joinSet s c i).attn.get d).set =
      if d = c then joinGroup (priorityAt s) i (s.attn.get d).set else (s.attn.get d).set := by
  rw [joinSet_attn, Table.get_set]
  split
  · next h => rw [h]
  · rfl

theorem joinSet_get_mask (s : State) (c d : Client) (i : SlotId) :
    ((joinSet s c i).attn.get d).mask = (s.attn.get d).mask :=
  Table.apply_get_set Attn.mask (by rfl) d

theorem leaveSet_get_of_ne (s : State) (i : SlotId) {c d : Client} (h : d ≠ c) :
    (leaveSet s c i).attn.get d = s.attn.get d := by
  rw [leaveSet_attn, Table.get_set_of_ne _ _ h]

theorem joinSet_get_of_ne (s : State) (i : SlotId) {c d : Client} (h : d ≠ c) :
    (joinSet s c i).attn.get d = s.attn.get d := by
  rw [joinSet_attn, Table.get_set_of_ne _ _ h]

/-- An entry that stands in no set but `giver`'s moves to the set of its claimant. -/
theorem placed_of_move (hattn : u.attn = s.attn) (hin : ∀ d, d ≠ giver → i ∉ (s.attn.get d).set)
    (hclaim : claimantAt u i = some c) : Placed s (joinSet (leaveSet u giver i) c i) i := by
  intro d
  have hleft : ((leaveSet u giver i).attn.get d).set = dropSlot i (s.attn.get d).set := by
    rw [leaveSet_get_set, hattn]
    split
    · rfl
    · next hd => exact (dropSlot_of_not_mem (hin d hd)).symm
  have hclaim' : claimantAt (joinSet (leaveSet u giver i) c i) i = some c := hclaim
  have hpriority : priorityAt (joinSet (leaveSet u giver i) c i) = priorityAt (leaveSet u giver i) := rfl
  rw [joinSet_get_set, hleft, hclaim', hpriority]
  simp only [Option.some.injEq, eq_comm]

/-- An entry that stood in no set joins that of its claimant. -/
theorem placed_of_join (hattn : u.attn = s.attn) (hin : ∀ d, i ∉ (s.attn.get d).set)
    (hclaim : claimantAt u i = some c) : Placed s (joinSet u c i) i := by
  intro d
  have hclaim' : claimantAt (joinSet u c i) i = some c := hclaim
  have hpriority : priorityAt (joinSet u c i) = priorityAt u := rfl
  rw [joinSet_get_set, hattn, dropSlot_of_not_mem (hin d), hclaim', hpriority]
  simp only [Option.some.injEq, eq_comm]

/-- A record that belongs in no set before or after has no entry to place. -/
theorem placed_of_absent (hset : ∀ d, (t.attn.get d).set = (s.attn.get d).set) (hin : ∀ d, i ∉ (s.attn.get d).set)
    (hclaim : claimantAt t i = none) : Placed s t i := by
  intro d
  rw [hclaim, hset, dropSlot_of_not_mem (hin d)]
  simp

/-- A change of one record whose entry stands, if anywhere, in the set of the client whose line is recomputed. -/
theorem attentionLaw_update (h : AttentionLaw s) (ht : TablesAgree u)
    (hother : ∀ j, j ≠ i → recordAt u j = recordAt s j) (hplaced : Placed s u i)
    (hmask : ∀ d, (u.attn.get d).mask = (s.attn.get d).mask) (hattn : ∀ d, d ≠ c → u.attn.get d = s.attn.get d)
    (hin : ∀ d, d ≠ c → i ∉ (s.attn.get d).set) (hoffers : u.offers = s.offers) : AttentionLaw (refreshAttn u c) := by
  obtain ⟨hsets, hlines⟩ := attentionLaw_iff.1 h
  refine attentionLaw_refreshAttn (hsets.update ht hother hplaced fun d => ?_) fun d hd => ?_
  · rw [hmask]
    exact hsets.mask d
  · exact line_follows_of_other hlines (hattn d hd) hother (hin d hd) (incomingOffer_congr hoffers d)

/-- A record's entry stands in its claimant's set alone. -/
theorem SetsAgree.not_mem_of_ne_owner (h : SetsAgree s) (hx : recordAt s i = some x) {d : Client} (hd : d ≠ x.owner) :
    i ∉ (s.attn.get d).set := by
  refine h.not_mem_of_claimant ?_
  rw [claimantAt_eq hx, Rec.claimant]
  split
  · simpa using Ne.symm hd
  · simp

theorem SetsAgree.not_mem_of_acknowledged (h : SetsAgree s) (hx : recordAt s i = some x) (hu : ¬ x.unacknowledged = true)
    (d : Client) : i ∉ (s.attn.get d).set := by
  refine h.not_mem_of_claimant ?_
  rw [claimantAt_eq hx, Rec.claimant, if_neg hu]
  simp

theorem SetsAgree.not_mem_of_free (h : SetsAgree s) (hx : recordAt s i = none) (d : Client) : i ∉ (s.attn.get d).set :=
  h.not_mem_of_claimant (by rw [claimantAt_of_none hx]; simp)

/-! ### Requests on one record -/

/-- A record just created is in no attention set, and no line changes (R13). -/
theorem attentionLaw_create (h : AttentionLaw s) {rest : List SlotId} (hfree : s.freeList = i :: rest) {new : Rec}
    (hnew : new.offered = false) (hacknowledged : new.unacknowledged = false) (c : Client) (n : Nat) :
    AttentionLaw (putOwned (putRecord { s with freeList := rest } i new) c n) := by
  obtain ⟨hsets, hlines⟩ := attentionLaw_iff.1 h
  have hempty : recordAt s i = none := by
    obtain ⟨_, hnone⟩ := hsets.tables.free
    exact hnone i (hfree ▸ List.mem_cons_self)
  have hself : recordAt (putOwned (putRecord { s with freeList := rest } i new) c n) i = some new :=
    recordAt_putRecord_self _ i new
  have hother : ∀ j, j ≠ i → recordAt (putOwned (putRecord { s with freeList := rest } i new) c n) j = recordAt s j :=
    fun j hj => recordAt_putRecord_of_ne _ new hj
  have hclaim : claimantAt (putOwned (putRecord { s with freeList := rest } i new) c n) i = none := by
    rw [claimantAt_eq hself, Rec.claimant, hacknowledged]
    rfl
  refine attentionLaw_iff.2 ⟨hsets.update (hsets.tables.create hfree hnew c n) hother
    (placed_of_absent (fun _ => rfl) (hsets.not_mem_of_free hempty) hclaim) hsets.mask, fun d => ?_⟩
  exact line_follows_of_other hlines rfl hother (hsets.not_mem_of_free hempty d) rfl

/-- The entry of a record retired leaves its owner's set (R14). -/
theorem attentionLaw_retireRecord (h : AttentionLaw s) (hx : recordAt s i = some x) :
    AttentionLaw (retireRecord s i x) := by
  have hsets := setsAgree_of_attentionLaw h
  have hself : recordAt (retireRecord s i x) i = none := by rw [recordAt_retireRecord, if_pos rfl]
  refine attentionLaw_iff.2 ⟨hsets.update (i := i) (hsets.tables.retireRecord hx)
    (fun j hj => by rw [recordAt_retireRecord, if_neg hj]) (fun d => ?_) (fun d => ?_), retireRecord_linesFollow h hx⟩
  · rw [retireRecord_get_set h hx, claimantAt_of_none hself]
    simp
  · rw [retireRecord_get_mask]
    exact hsets.mask d

/-- A RELABEL moves the entry of an unacknowledged record whose priority changes, and no other (R121). -/
theorem attentionLaw_relabelRecord (h : AttentionLaw s) (hx : recordAt s i = some x) (tag : BitVec 16) (priority : Fin 4)
    (share : Bool) : AttentionLaw (relabelRecord s i x tag priority share) := by
  have hsets := setsAgree_of_attentionLaw h
  have hself : recordAt (putRecord s i { x with tag := tag, priority := priority, share := share }) i =
      some { x with tag := tag, priority := priority, share := share } := recordAt_putRecord_self s i _
  have hother : ∀ j, j ≠ i →
      recordAt (putRecord s i { x with tag := tag, priority := priority, share := share }) j = recordAt s j :=
    fun _ hj => recordAt_putRecord_of_ne s _ hj
  have hkept : Kept Rec.offered s (putRecord s i { x with tag := tag, priority := priority, share := share }) :=
    .putRecord hx rfl
  have hin : ∀ d, d ≠ x.owner → i ∉ (s.attn.get d).set := fun d hd => hsets.not_mem_of_ne_owner hx hd
  unfold relabelRecord
  dsimp only
  split
  · next hmoves =>
    obtain ⟨hu, _⟩ := hmoves
    refine attentionLaw_update h (hsets.tables.congr (hkept.trans (.of_slots rfl)) rfl rfl) hother
      (placed_of_move rfl hin ?_) (fun d => ?_) (fun d hd => ?_) hin rfl
    · rw [claimantAt_eq hself]
      exact if_pos hu
    · rw [joinSet_get_mask, leaveSet_get_mask]
      rfl
    · rw [joinSet_get_of_ne _ _ hd, leaveSet_get_of_ne _ _ hd]
      rfl
  · next hstays =>
    by_cases hu : x.unacknowledged = true
    · have hpriority : priority = x.priority := not_not.1 fun hne => hstays ⟨hu, hne⟩
      have hclaim : Kept Rec.claim s (putRecord s i { x with tag := tag, priority := priority, share := share }) :=
        .putRecord hx (by rw [hpriority]; rfl)
      have hwritten : AttentionLaw (putRecord s i { x with tag := tag, priority := priority, share := share }) :=
        attentionLaw_congr h (hsets.tables.congr hkept rfl rfl) hclaim rfl fun _ => rfl
      exact attentionLaw_refreshAttn (setsAgree_of_attentionLaw hwritten) fun d _ => linesFollow_of_attentionLaw hwritten d
    · refine attentionLaw_update h (hsets.tables.congr hkept rfl rfl) hother
        (placed_of_absent (fun _ => rfl) (hsets.not_mem_of_acknowledged hx hu) ?_) (fun _ => rfl) (fun _ _ => rfl) hin rfl
      rw [claimantAt_eq hself]
      exact if_neg hu

/-! ### COLLECT, ACKNOWLEDGE and SET-MASK (R123, R127 to R130) -/

/-- An entry taken leaves its set, and its record is acknowledged (R123). -/
theorem SetsAgree.takeEntry (h : SetsAgree s) (hi : i ∈ (s.attn.get c).set) : SetsAgree (takeEntry s c i) := by
  have hkept : Kept Rec.offered s (Machine.takeEntry s c i) :=
    (Kept.of_slots (leaveSet_slots s c i)).trans (.mapRecord i fun _ => rfl)
  have hattn : (Machine.takeEntry s c i).attn = (leaveSet s c i).attn := mapRecord_attn _ _ _
  have hin : ∀ d, d ≠ c → i ∉ (s.attn.get d).set := fun d hd =>
    h.not_mem_of_claimant (by rw [(h.mem c i).1 hi]; simpa using Ne.symm hd)
  refine h.update (i := i) (h.tables.congr hkept (by simp) (by simp)) (fun j hj => ?_) (fun d => ?_) (fun d => ?_)
  · rw [recordAt_takeEntry, if_neg hj]
  · have hclaim : claimantAt (Machine.takeEntry s c i) i = none := by
      rw [claimantAt, recordAt_takeEntry, if_pos rfl]
      cases recordAt s i <;> rfl
    rw [hclaim, hattn, leaveSet_get_set]
    split
    · simp
    · next hd => simp [dropSlot_of_not_mem (hin d hd)]
  · rw [hattn, leaveSet_get_mask]
    exact h.mask d

theorem takeEntry_get_of_ne (s : State) (i : SlotId) {c d : Client} (h : d ≠ c) :
    (takeEntry s c i).attn.get d = s.attn.get d := by
  rw [takeEntry, mapRecord_attn, leaveSet_get_of_ne s i h]

theorem takeEntries_get_of_ne (s : State) (l : List SlotId) {c d : Client} (h : d ≠ c) :
    (takeEntries s c l).attn.get d = s.attn.get d := by
  induction l generalizing s with
  | nil => rfl
  | cons i rest ih => exact (ih (takeEntry s c i)).trans (takeEntry_get_of_ne s i h)

theorem mem_takeEntry_set (s : State) (c : Client) (i : SlotId) {j : SlotId} (hj : j ∈ (s.attn.get c).set) (hne : j ≠ i) :
    j ∈ ((takeEntry s c i).attn.get c).set := by
  rw [takeEntry, mapRecord_attn, leaveSet_get_set, if_pos rfl]
  exact mem_dropSlot.2 ⟨hj, hne⟩

theorem SetsAgree.takeEntries (h : SetsAgree s) {l : List SlotId} (hnodup : l.Nodup)
    (hl : ∀ i ∈ l, i ∈ (s.attn.get c).set) : SetsAgree (takeEntries s c l) := by
  induction l generalizing s with
  | nil => exact h
  | cons i rest ih =>
    obtain ⟨hnew, hrest⟩ := List.nodup_cons.1 hnodup
    exact ih (h.takeEntry (hl i List.mem_cons_self)) hrest fun j hj =>
      mem_takeEntry_set s c i (hl j (List.mem_cons_of_mem i hj)) fun hji => hnew (hji ▸ hj)

theorem attentionLaw_takeEntries (h : AttentionLaw s) {l : List SlotId} (hl : l.Sublist (s.attn.get c).set) :
    AttentionLaw (refreshAttn (takeEntries s c l) c) := by
  obtain ⟨hsets, hlines⟩ := attentionLaw_iff.1 h
  have hkept : Kept Rec.priority s (takeEntries s c l) := .takeEntries (fun _ => rfl) c l
  refine attentionLaw_refreshAttn (hsets.takeEntries (hl.nodup (hsets.nodup c)) fun i hi => hl.subset hi) fun d hd => ?_
  exact line_follows_of_stands hlines (takeEntries_get_of_ne s l hd) (fun j _ => priorityAt_of_kept hkept j)
    (incomingOffer_congr (takeEntries_offers s c l) d)

theorem attentionLaw_mask (h : AttentionLaw s) (ht : TablesAgree t) (hslots : t.slots = s.slots)
    (hoffers : t.offers = s.offers) {n : Nat} (hn : n ≤ 4)
    (hattn : t.attn = s.attn.set c { s.attn.get c with mask := n }) : AttentionLaw (refreshAttn t c) := by
  obtain ⟨hsets, hlines⟩ := attentionLaw_iff.1 h
  refine attentionLaw_refreshAttn (hsets.congr ht (.of_slots hslots) (fun d => ?_) fun d => ?_) fun d hd => ?_
  · rw [hattn]
    exact Table.apply_get_set Attn.set (by rfl) d
  · rw [hattn, Table.get_set]
    split
    · exact hn
    · exact hsets.mask d
  · refine line_follows_of_stands hlines (by rw [hattn, Table.get_set_of_ne _ _ hd]) (fun j _ => ?_)
      (incomingOffer_congr hoffers d)
    exact priorityAt_congr (recordAt_eq_of_slots hslots j)

/-! ### Offers -/

/-- An OFFER may change its receiver's line alone (R126, R139). -/
theorem attentionLaw_openOffer (h : AttentionLaw s) (hx : recordAt s i = some x) {o : Offer} (ho : Opens s i x o) :
    AttentionLaw (openOffer s i x o) := by
  obtain ⟨hsets, hlines⟩ := attentionLaw_iff.1 h
  have hopened : Kept Rec.claim s { s with offers := s.offers ++ [o] } := .of_slots rfl
  have hkept : Kept Rec.claim s (putRecord { s with offers := s.offers ++ [o] } i { x with offered := true }) :=
    hopened.trans (.putRecord hx rfl)
  have ht : TablesAgree (putRecord { s with offers := s.offers ++ [o] } i { x with offered := true }) :=
    (hsets.tables.openOffer hx ho).congr (.of_slots rfl) rfl rfl
  refine attentionLaw_refreshAttn (hsets.congr ht hkept (fun _ => rfl) hsets.mask) fun d hd => ?_
  refine line_follows_of_stands hlines rfl (fun j _ => priorityAt_of_kept hkept.priority j) ?_
  have hoffer : incomingOffer (putRecord { s with offers := s.offers ++ [o] } i { x with offered := true }) d =
      (s.offers ++ [o]).any fun q => decide (q.receiver = d) := rfl
  rw [hoffer, List.any_append, incomingOffer]
  simp [Ne.symm hd]

theorem attentionLaw_endOffer (h : AttentionLaw s) {o : Offer} (ho : o ∈ s.offers) : AttentionLaw (endOffer s o) := by
  obtain ⟨hsets, hlines⟩ := attentionLaw_iff.1 h
  have hkept : Kept Rec.claim s (endOffer s o) := .endOffer (fun _ => rfl) o
  exact attentionLaw_iff.2 ⟨hsets.congr (hsets.tables.endOffer o) hkept (endOffer_get_set s o)
    (fun d => by rw [endOffer_get_mask]; exact hsets.mask d), endOffer_linesFollow hsets.tables.nodup ho hlines⟩

/-- Offers of different records can end one after another. -/
theorem attentionLaw_endOffers (h : AttentionLaw s) {l : List Offer} (hnodup : (l.map Offer.record).Nodup)
    (hl : ∀ o ∈ l, o ∈ s.offers) : AttentionLaw (endOffers s l) := by
  induction l generalizing s with
  | nil => exact h
  | cons o rest ih =>
    obtain ⟨hnew, hrest⟩ := List.nodup_cons.1 hnodup
    refine ih (attentionLaw_endOffer h (hl o List.mem_cons_self)) hrest fun q hq => ?_
    rw [endOffer_offers, List.mem_filter]
    have hne : q.record ≠ o.record := fun he => hnew (he ▸ List.mem_map_of_mem hq)
    exact ⟨hl q (List.mem_cons_of_mem o hq), decide_eq_true hne⟩

theorem attentionLaw_markClient (h : AttentionLaw s) (c : Client) : AttentionLaw (markClient s c) := by
  have hsets := setsAgree_of_attentionLaw h
  have hmarked : AttentionLaw { s with purging := s.purging.set c true } :=
    attentionLaw_congr h (hsets.tables.congr (.of_slots rfl) rfl rfl) (.of_slots rfl) rfl fun _ => rfl
  have hsub : (offersOf s c).Sublist s.offers := List.filter_sublist
  have hended := attentionLaw_endOffers hmarked ((hsub.map _).nodup hsets.tables.nodup) fun o ho => hsub.subset ho
  exact attentionLaw_congr hended (hsets.tables.markClient c) (.of_slots rfl) rfl fun _ => rfl

/-- The state in which client `c` owns the record `x` in slot `i` and counts it, before the record's entry moves (R141). -/
def handedTo (s : State) (i : SlotId) (x : Rec) (c : Client) : State :=
  let handed := putRecord (removeOffer s i) i { x with owner := c, offered := false }
  let lowered := putOwned handed x.owner (handed.owned.get x.owner - 1)
  putOwned lowered c (lowered.owned.get c + 1)

theorem acceptRecord_eq_handedTo (s : State) (i : SlotId) (x : Rec) (c : Client) :
    acceptRecord s i x c = refreshAttn (refreshAttn (moveEntry (handedTo s i x c) i x c) x.owner) c := rfl

theorem handedTo_attn (s : State) (i : SlotId) (x : Rec) (c : Client) : (handedTo s i x c).attn = s.attn :=
  removeOffer_attn s i

theorem recordAt_handedTo_self (s : State) (i : SlotId) (x : Rec) (c : Client) :
    recordAt (handedTo s i x c) i = some { x with owner := c, offered := false } := recordAt_putRecord_self _ i _

theorem moveEntry_get_of_ne (i : SlotId) (x : Rec) {c d : Client} (hgiver : d ≠ x.owner) (hd : d ≠ c) :
    (moveEntry s i x c).attn.get d = s.attn.get d := by
  unfold moveEntry
  split
  · rw [joinSet_get_of_ne _ _ hd, leaveSet_get_of_ne _ _ hgiver]
  · rfl

theorem moveEntry_get_mask (s : State) (i : SlotId) (x : Rec) (c d : Client) :
    ((moveEntry s i x c).attn.get d).mask = (s.attn.get d).mask := by
  unfold moveEntry
  split
  · rw [joinSet_get_mask, leaveSet_get_mask]
  · rfl

@[simp] theorem moveEntry_offers (s : State) (i : SlotId) (x : Rec) (c : Client) :
    (moveEntry s i x c).offers = s.offers := by unfold moveEntry; split <;> rfl

/-- The entry of an unacknowledged record that changes hands moves to the set of its new owner (R122). -/
theorem placed_moveEntry (h : SetsAgree s) (hx : recordAt s i = some x) (c : Client) :
    Placed s (moveEntry (handedTo s i x c) i x c) i := by
  have hself := recordAt_handedTo_self s i x c
  unfold moveEntry
  split
  · next hu =>
    exact placed_of_move (handedTo_attn s i x c) (fun d hd => h.not_mem_of_ne_owner hx hd)
      (by rw [claimantAt_eq hself]; exact if_pos hu)
  · next hu =>
    exact placed_of_absent (fun d => by rw [handedTo_attn]) (h.not_mem_of_acknowledged hx hu)
      (by rw [claimantAt_eq hself]; exact if_neg hu)

/-- An ACCEPT recomputes the lines of the giver, who may lose an entry, and of the receiver, who loses the offer (R141). -/
theorem attentionLaw_acceptRecord (h : AttentionLaw s) (hx : recordAt s i = some x) {o : Offer} (ho : o ∈ s.offers)
    (hrecord : o.record = i) : AttentionLaw (acceptRecord s i x o.receiver) := by
  obtain ⟨hsets, hlines⟩ := attentionLaw_iff.1 h
  have ht : TablesAgree (moveEntry (handedTo s i x o.receiver) i x o.receiver) :=
    (hsets.tables.acceptRecord hx o.receiver).congr (.of_slots rfl) rfl rfl
  have hother : ∀ j, j ≠ i → recordAt (moveEntry (handedTo s i x o.receiver) i x o.receiver) j = recordAt s j :=
    fun j hj => (recordAt_acceptRecord s i j x o.receiver).trans (if_neg hj)
  have hmoved : SetsAgree (moveEntry (handedTo s i x o.receiver) i x o.receiver) :=
    hsets.update ht hother (placed_moveEntry hsets hx _) fun d => by
      rw [moveEntry_get_mask, handedTo_attn]
      exact hsets.mask d
  rw [acceptRecord_eq_handedTo]
  refine attentionLaw_refreshAttn (hmoved.refreshAttn x.owner) fun d hd => ?_
  by_cases hgiver : d = x.owner
  · rw [hgiver]
    exact refreshAttn_line_self _ _
  · refine refreshAttn_line (line_follows_of_other hlines ?_ hother (hsets.not_mem_of_ne_owner hx hgiver) ?_) _
    · rw [moveEntry_get_of_ne i x hgiver hd, handedTo_attn]
    · have hoffers : (moveEntry (handedTo s i x o.receiver) i x o.receiver).offers = (removeOffer s o.record).offers := by
        rw [moveEntry_offers, hrecord]
        rfl
      exact (incomingOffer_congr hoffers d).trans (incomingOffer_removeOffer hsets.tables.nodup ho hd)

/-! ### Firings -/

/-- A first firing enters the record in its owner's set, and a further one leaves the set (R120). -/
theorem attentionLaw_fire (h : AttentionLaw s) (i : SlotId) : AttentionLaw (fire s i) := by
  have hsets := setsAgree_of_attentionLaw h
  unfold fire
  split
  · exact h
  · next x hx =>
    split
    · next hu =>
      have hkept : Kept Rec.claim s (putRecord s i (furtherFiring s.tableTime x)) := .putRecord hx rfl
      have hwritten : AttentionLaw (putRecord s i (furtherFiring s.tableTime x)) :=
        attentionLaw_congr h (hsets.tables.congr (.putRecord hx rfl) rfl rfl) hkept rfl fun _ => rfl
      exact attentionLaw_refreshAttn (setsAgree_of_attentionLaw hwritten) fun d _ => linesFollow_of_attentionLaw hwritten d
    · next hu =>
      have hkept : Kept Rec.offered s (putRecord s i (firstFiring s.tableTime x)) := .putRecord hx rfl
      refine attentionLaw_update h (hsets.tables.congr (hkept.trans (.of_slots rfl)) rfl rfl)
        (fun _ hj => recordAt_putRecord_of_ne s _ hj) (placed_of_join rfl (hsets.not_mem_of_acknowledged hx hu) ?_)
        (joinSet_get_mask _ _ · _) (fun _ hd => joinSet_get_of_ne _ _ hd)
        (fun d _ => hsets.not_mem_of_acknowledged hx hu d) rfl
      rw [claimantAt_eq (recordAt_putRecord_self s i _)]
      rfl

theorem attentionLaw_quiet (h : AttentionLaw s) (hq : Quiet s t) : AttentionLaw t := by
  have hsets := setsAgree_of_attentionLaw h
  refine attentionLaw_congr h (hsets.tables.congr (hq.held.comp Standing.offered) hq.freeList (by rw [hq.offers])) ?_
    hq.attn fun d => incomingOffer_congr hq.offers d
  exact hq.held.comp fun v => (if v.unacknowledged = true then some v.owner else none, v.priority)

theorem attentionLaw_expireAt (h : AttentionLaw s) (i : SlotId) : AttentionLaw (expireAt s i) := by
  unfold expireAt
  split
  · exact h
  · next x hx =>
    have hplaced : AttentionLaw (reschedule
        (driveBinding (putRecord s i (expireRecord s.tableTime x).record)
          (expireRecord s.tableTime x).record.outputBinding) i (expireRecord s.tableTime x).schedule) :=
      attentionLaw_quiet h (((Quiet.putRecord hx (standing_expireRecord s.tableTime x)).trans
        (.driveBinding _ _)).trans (.reschedule _ _ _))
    unfold applyEffect
    dsimp only
    split
    · exact attentionLaw_fire hplaced i
    · exact hplaced

theorem attentionLaw_expireAll (h : AttentionLaw s) (l : List SlotId) : AttentionLaw (expireAll s l) := by
  induction l generalizing s with
  | nil => exact h
  | cons i rest ih => exact ih (attentionLaw_expireAt h i)

/-! ### Every change -/

theorem attentionLaw_recordChange {c : Instr} (h : AttentionLaw s) (hc : RecordChange s c t) : AttentionLaw t := by
  cases hc with
  | quiet hq => exact attentionLaw_quiet h hq
  | create hfree => exact attentionLaw_create h hfree rfl rfl _ _
  | retire hx => exact attentionLaw_retireRecord h hx
  | relabel hx tag priority share => exact attentionLaw_relabelRecord h hx tag priority share
  | take d hl => exact attentionLaw_takeEntries h hl
  | mask d hn =>
    exact attentionLaw_mask h ((setsAgree_of_attentionLaw h).tables.congr (.of_slots rfl) rfl rfl) rfl rfl hn rfl
  | offer hx ho => exact attentionLaw_openOffer h hx ho
  | accept hx ho =>
    obtain ⟨hin, hrecord⟩ := offerOf_some ho
    exact attentionLaw_acceptRecord h hx hin hrecord
  | endOffer ho => exact attentionLaw_endOffer h ho
  | expiry i => exact attentionLaw_expireAt h i

theorem attentionLaw_assertPortReset (h : AttentionLaw s) (p : Client) : AttentionLaw (assertPortReset s p) :=
  attentionLaw_mask h ((setsAgree_of_attentionLaw h).tables.congr (.of_slots rfl) rfl rfl) rfl rfl (Nat.zero_le 4) rfl

theorem attentionLaw_examineSlot (h : AttentionLaw s) (d : Client) (i : SlotId) : AttentionLaw (examineSlot s d i) := by
  unfold examineSlot
  split
  · exact h
  · next hx =>
    split
    · exact attentionLaw_retireRecord h hx
    · exact h

theorem attentionLaw_afterReset (pins : Pins) : AttentionLaw (State.afterReset pins) := by
  obtain ⟨hfree, htable⟩ := tablesAgree_afterReset pins
  have hattn : ∀ d, (State.afterReset pins).attn.get d = { set := [], mask := 0, line := false } := fun d =>
    Table.get_fill _ d
  refine ⟨hfree, htable, fun d => ?_, fun d i => ?_, fun d => ?_, fun d => ?_, fun d => ?_⟩
  · rw [hattn]; exact List.nodup_nil
  · rw [hattn, recordAt_afterReset]; simp
  · rw [hattn]; exact List.Pairwise.nil
  · rw [hattn]; exact Nat.zero_le 4
  · have hnone : incomingOffer (State.afterReset pins) d = false := rfl
    rw [attnAsserts, hattn, hnone]
    rfl

theorem attentionLaw_change {c : Instr} (h : AttentionLaw s) (hc : Change s c t) : AttentionLaw t := by
  have hagree := (setsAgree_of_attentionLaw h).tables
  have ht := hagree.change hc
  cases hc with
  | records hr => exact attentionLaw_recordChange h hr
  | startTime _ new =>
    refine attentionLaw_congr h ht (.startTime (fun _ _ => rfl) new _) rfl fun d => ?_
    show (s.offers.map _).any _ = s.offers.any _
    rw [List.any_map]
    rfl
  | mark d => exact attentionLaw_markClient h d
  | portReset p => exact attentionLaw_assertPortReset h p
  | portResetMarking p => exact attentionLaw_markClient (attentionLaw_assertPortReset h p) p
  | advance =>
    have hticked : AttentionLaw (tick s) :=
      attentionLaw_congr h (hagree.congr (.of_slots rfl) rfl rfl) (.of_slots rfl) rfl fun _ => rfl
    exact attentionLaw_expireAll hticked _
  | @purge _ d _ _ i =>
    have hexamined := attentionLaw_examineSlot h d i
    unfold moveCursor at ht ⊢
    split
    · next hlast =>
      rw [dif_pos hlast] at ht
      exact attentionLaw_congr hexamined ht (.of_slots rfl) rfl fun _ => rfl
    · next hlast =>
      rw [dif_neg hlast] at ht
      exact attentionLaw_congr hexamined ht (.of_slots rfl) rfl fun _ => rfl
  | reset pins =>
    have hreset := attentionLaw_afterReset pins
    generalize State.afterReset pins = u at hreset ht ⊢
    exact attentionLaw_congr hreset ht (.of_slots rfl) rfl fun _ => rfl
  | timeBase | quota | control | link | select => exact attentionLaw_congr h ht (.of_slots rfl) rfl fun _ => rfl

end

end Sys2Proof.Machine
end

section
/-! CERTIFICATE. The law of the attention sets and lines as every command leaves it (07_attention.md). -/

namespace Sys2Proof.Claims

open Sys2Proof.Machine Sys2Proof.Safety

/-- Settles O12: a change of one record places its entry where the record belongs, and recomputes the lines of the clients whose
sets or offers it touches; the lines of the others read what they read before. -/
theorem attentionLawKept : Obligations.AttentionLawKept :=
  keptByStep_of_change (fun _ _ h => h)
    (fun s r code payload h => attentionLaw_congr h
      ((setsAgree_of_attentionLaw h).tables.congr (.of_slots (post_slots s r code payload)) (by simp) (by simp))
      (.of_slots (post_slots s r code payload)) (by simp) fun d => incomingOffer_congr (by simp) d)
    fun _ _ _ h hc => attentionLaw_change h hc

end Sys2Proof.Claims
end

section
/-! SUPPORT. The laws of the ports: one port with the mark of the request in service, and what each change makes of the two. -/

namespace Sys2Proof.Machine

open Sys2Proof.Safety

/-! ### One port and its mark -/

/-- `PortLaw` of a port `q` whose request in service, if there is one, has the discard mark `mark`. -/
structure PortLawful (q : Port) (mark : Option Bool) : Prop where
  inbound : q.inbound.length ≤ Config.inboundLimit
  reserved : q.inbound.length + (if mark.isSome then 1 else 0) + q.outbound.length ≤ Config.reservationLimit
  bodies : ∀ body ∈ q.inbound, RequestBody body
  flags : (q.refused && q.malformed) = false
  taken : q.assertTaken = true → q.state = .reset
  reset : q.state = .reset →
    q.inbound = [] ∧ q.outbound = [] ∧ q.refused = false ∧ q.malformed = false ∧ mark ≠ some false ∧
      ∀ t, q.transfer = some t → t.ignored = true

/-- Each port is lawful with its mark, and the request in service has a body that an accepted frame can have. -/
theorem portsLaw_iff {s : State} :
    PortsLaw s ↔ (∀ p, PortLawful (s.ports.get p) (serviceMark s p)) ∧ ∀ r, s.executor = some r → RequestBody r.body := by
  refine and_congr_left fun _ => forall_congr' fun p => ⟨?_, ?_⟩
  · rintro ⟨hinbound, hreserved, hbodies, hflags, htaken, hreset⟩
    exact ⟨hinbound, hreserved, hbodies, hflags, htaken, hreset⟩
  · rintro ⟨hinbound, hreserved, hbodies, hflags, htaken, hreset⟩
    exact ⟨hinbound, hreserved, hbodies, hflags, htaken, hreset⟩

section

variable {s t : State} {p : Client} {q : Port} {mark : Option Bool}

theorem serviceMark_congr (h : t.executor = s.executor) (p : Client) : serviceMark t p = serviceMark s p := by
  rw [serviceMark, serviceMark, h]

theorem portsLaw_congr (h : PortsLaw s) (hports : t.ports = s.ports) (hexecutor : t.executor = s.executor) :
    PortsLaw t := by
  obtain ⟨hport, hbody⟩ := portsLaw_iff.1 h
  refine portsLaw_iff.2 ⟨fun p => ?_, hexecutor ▸ hbody⟩
  rw [hports, serviceMark_congr hexecutor]
  exact hport p

/-- A change of one port under the same request in service. -/
theorem portsLaw_putPort (h : PortsLaw s) (hq : PortLawful q (serviceMark s p)) (draws : Nat) :
    PortsLaw { putPort s p q with freeDraws := draws } := by
  obtain ⟨hport, hbody⟩ := portsLaw_iff.1 h
  refine portsLaw_iff.2 ⟨fun d => ?_, hbody⟩
  show PortLawful ((s.ports.set p q).get d) (serviceMark s d)
  rw [Table.get_set]
  split
  · next hd => rwa [hd]
  · exact hport d

/-! ### Transfers (R152 to R159) -/

/-- A transfer that is heard is one on a READY port (R166). -/
theorem PortLawful.ready (h : PortLawful (s.ports.get p) mark) (hheard : (currentTransfer s p).ignored = false) :
    (s.ports.get p).state ≠ .reset := by
  intro hreset
  obtain ⟨_, _, _, _, _, htransfer⟩ := h.reset hreset
  have hignored : (currentTransfer s p).ignored = true := by
    unfold currentTransfer
    cases htr : (s.ports.get p).transfer with
    | none => simp [Transfer.ignored, freshTransfer, hreset]
    | some t => exact htransfer t htr
  rw [hheard] at hignored
  cases hignored

/-- The transfer of a port in RESET may only be an ignored one. -/
theorem PortLawful.withTransfer (h : PortLawful q mark) {tr : Option Transfer}
    (htr : q.state = .reset → ∀ t, tr = some t → t.ignored = true) : PortLawful { q with transfer := tr } mark where
  inbound := h.inbound
  reserved := h.reserved
  bodies := h.bodies
  flags := h.flags
  taken := h.taken
  reset hreset := by
    obtain ⟨hinbound, houtbound, hrefused, hmalformed, hmark, _⟩ := h.reset hreset
    exact ⟨hinbound, houtbound, hrefused, hmalformed, hmark, htr hreset⟩

/-- The end of a transfer records what was shifted out. -/
theorem PortLawful.closed (h : PortLawful q mark) (tr : Transfer) (n : Nat) (tail : List Byte) :
    PortLawful (closed q tr n tail) mark where
  inbound := h.inbound
  reserved := h.reserved
  bodies := h.bodies
  flags := h.flags
  taken := h.taken
  reset hreset := by
    obtain ⟨hinbound, houtbound, hrefused, hmalformed, hmark, _⟩ := h.reset hreset
    exact ⟨hinbound, houtbound, hrefused, hmalformed, hmark, fun _ hnone => nomatch hnone⟩

/-- A frame that is not malformed has a body of 3 to 24 bytes (R154, R155). -/
theorem requestBody_of_submittedBody {bytes body : List Byte} (h : submittedBody bytes = some body) : RequestBody body := by
  cases bytes with
  | nil => cases h
  | cons len rest =>
    simp only [submittedBody] at h
    split_ifs at h with hrange hshort
    cases h
    rw [not_or] at hrange
    have hlength : (rest.take len.toNat).length = len.toNat := List.length_take_of_le (by omega)
    rw [RequestBody, hlength]
    omega

/-- A SUBMIT on a READY port adds a frame only below both limits, and sets at most one link flag (R155 to R157). -/
theorem PortLawful.judgeSubmit (h : PortLawful (s.ports.get p) (serviceMark s p)) (hready : (s.ports.get p).state ≠ .reset)
    (mosi : List Byte) : PortLawful (judgeSubmit s p mosi) (serviceMark s p) := by
  unfold Machine.judgeSubmit
  split
  · exact ⟨h.inbound, h.reserved, h.bodies, rfl, h.taken, fun hreset => absurd hreset hready⟩
  · next body hbody =>
    split
    · exact ⟨h.inbound, h.reserved, h.bodies, rfl, h.taken, fun hreset => absurd hreset hready⟩
    · next hroom =>
      rw [not_or, Nat.not_le, Nat.not_le] at hroom
      obtain ⟨hinbound, hreserved⟩ := hroom
      unfold reservation at hreserved
      refine ⟨?_, ?_, fun b hb => ?_, rfl, h.taken, fun hreset => absurd hreset hready⟩
      · rw [List.length_append]
        exact hinbound
      · dsimp only
        rw [List.length_append, List.length_singleton]
        omega
      · obtain hold | hnew := List.mem_append.1 hb
        · exact h.bodies b hold
        · rw [List.mem_singleton.1 hnew]
          exact requestBody_of_submittedBody hbody

/-- A FETCH may take the head off the outbound queue (R159). -/
theorem PortLawful.fetchedQueue (h : PortLawful q mark) (chosen : Option (List Byte)) (n : Nat) :
    PortLawful (fetchedQueue q chosen n) mark := by
  unfold Machine.fetchedQueue
  split
  · refine ⟨h.inbound, ?_, h.bodies, h.flags, h.taken, fun hreset => ?_⟩
    · have hreserved := h.reserved
      dsimp only
      rw [List.length_tail]
      omega
    · obtain ⟨hinbound, houtbound, hrest⟩ := h.reset hreset
      exact ⟨hinbound, by rw [houtbound]; rfl, hrest⟩
  · exact h

theorem PortLawful.move (h : PortLawful (s.ports.get p) (serviceMark s p)) (hq : PortMove s p q) :
    PortLawful q (serviceMark s p) := by
  cases hq with
  | falls hidle =>
    refine h.withTransfer fun hreset t ht => ?_
    cases ht
    simp [Transfer.ignored, freshTransfer, hreset]
  | chooses hheard choice => exact h.withTransfer fun hreset => absurd hreset (h.ready hheard)
  | ends n tail => exact h.closed _ n tail
  | submits hheard n mosi => exact (h.judgeSubmit (h.ready hheard) mosi).closed _ n []
  | fetches chosen n => exact (h.fetchedQueue chosen n).closed _ n _
  | released =>
    exact ⟨h.inbound, h.reserved, h.bodies, h.flags, fun htaken => absurd htaken (by simp),
      fun hreset => absurd hreset (by simp)⟩

/-! ### Selection, port reset and RESET -/

/-- The frame selected leaves the queue, and its service takes its place in the reservation count (R151, R161). -/
theorem portsLaw_select (h : PortsLaw s) {body : List Byte} {rest : List (List Byte)} (hidle : s.executor = none)
    (hq : (s.ports.get p).inbound = body :: rest) :
    PortsLaw
      { putPort s p { s.ports.get p with inbound := rest } with
        executor := some { port := p, body := body, discard := false }, lastServed := p } := by
  obtain ⟨hport, _⟩ := portsLaw_iff.1 h
  have hnone : ∀ d, serviceMark s d = none := fun d => by rw [serviceMark, hidle]
  refine portsLaw_iff.2 ⟨fun d => ?_, fun r hr => ?_⟩
  · show PortLawful ((s.ports.set p { s.ports.get p with inbound := rest }).get d)
      (if p = d then some false else none)
    have hd := hport d
    rw [hnone] at hd
    rw [Table.get_set]
    by_cases hdp : d = p
    · subst hdp
      rw [if_pos rfl, if_pos rfl]
      have hinbound := hd.inbound
      have hreserved := hd.reserved
      have hbodies := hd.bodies
      rw [hq] at hinbound hreserved hbodies
      rw [List.length_cons] at hinbound hreserved
      refine ⟨Nat.le_of_succ_le hinbound, ?_, fun b hb => hbodies b (List.mem_cons_of_mem _ hb), hd.flags, hd.taken,
        fun hreset => ?_⟩
      · simp only [Option.isSome_none, Bool.false_eq_true, if_false, Option.isSome_some, if_true] at hreserved ⊢
        omega
      · obtain ⟨hempty, _⟩ := hd.reset hreset
        rw [hq] at hempty
        cases hempty
    · rwa [if_neg hdp, if_neg (Ne.symm hdp)]
  · cases hr
    exact (hport p).bodies body (by rw [hq]; exact List.mem_cons_self)

theorem serviceMark_assertPortReset (s : State) (p d : Client) :
    serviceMark (assertPortReset s p) d = if d = p then (serviceMark s d).map fun _ => true else serviceMark s d := by
  have hexecutor : (assertPortReset s p).executor = discardService p s.executor := rfl
  unfold serviceMark
  rw [hexecutor]
  cases s.executor with
  | none => simp [discardService]
  | some r =>
    by_cases hr : r.port = p
    · by_cases hd : d = p
      · simp [discardService, hr, hd]
      · simp [discardService, hr, hd, Ne.symm hd]
    · by_cases hd : d = p <;> simp [discardService, hr, hd]

/-- A port reset empties its port, ends the transfer and marks the service for discard (R165). -/
theorem portsLaw_assertPortReset (h : PortsLaw s) (p : Client) : PortsLaw (assertPortReset s p) := by
  obtain ⟨hport, hbody⟩ := portsLaw_iff.1 h
  refine portsLaw_iff.2 ⟨fun d => ?_, fun r hr => ?_⟩
  · rw [serviceMark_assertPortReset]
    show PortLawful ((s.ports.set p (resetPort (s.ports.get p))).get d) _
    rw [Table.get_set]
    by_cases hd : d = p
    · subst hd
      rw [if_pos rfl, if_pos rfl]
      refine ⟨Nat.zero_le _, ?_, List.forall_mem_nil _, rfl, fun _ => rfl,
        fun _ => ⟨rfl, rfl, rfl, rfl, ?_, fun t ht => ?_⟩⟩
      · show 0 + _ + 0 ≤ 8
        split <;> omega
      · cases serviceMark s d <;> simp
      · obtain ⟨t', _, rfl⟩ := Option.map_eq_some_iff.1 ht
        simp [Transfer.ignored]
    · rw [if_neg hd, if_neg hd]
      exact hport d
  · have hr' : discardService p s.executor = some r := hr
    obtain ⟨r', hr'', rfl⟩ := Option.map_eq_some_iff.1 hr'
    have hbody' := hbody r' hr''
    split <;> exact hbody'

theorem portLawful_portAfterReset (prst sel : Level) : PortLawful (portAfterReset prst sel) none := by
  refine ⟨Nat.zero_le _, Nat.zero_le _, List.forall_mem_nil _, rfl, fun htaken => absurd htaken Bool.false_ne_true,
    fun _ => ⟨rfl, rfl, rfl, rfl, nofun, fun t ht => ?_⟩⟩
  simp only [portAfterReset] at ht
  split at ht
  · cases ht; rfl
  · cases ht

theorem portsAfterReset_get (pins : Pins) (p : Client) :
    (portsAfterReset pins).get p = portAfterReset (pins.prst.get p) (pins.sel.get p) := by
  fin_cases p <;> rfl

theorem portsLaw_afterReset (pins : Pins) : PortsLaw (State.afterReset pins) := by
  refine portsLaw_iff.2 ⟨fun p => ?_, fun r hr => nomatch hr⟩
  show PortLawful ((portsAfterReset pins).get p) none
  rw [portsAfterReset_get]
  exact portLawful_portAfterReset _ _

/-! ### Every change -/

theorem portsLaw_change {c : Instr} (h : PortsLaw s) (hc : Change s c t) : PortsLaw t := by
  cases hc with
  | records hr => exact portsLaw_congr h hr.sameOutside.ports hr.sameOutside.executor
  | @link _ p q hq draws =>
    obtain ⟨hport, _⟩ := portsLaw_iff.1 h
    exact portsLaw_putPort h ((hport p).move hq) draws
  | select hidle hq => exact portsLaw_select h hidle hq
  | portReset p => exact portsLaw_assertPortReset h p
  | portResetMarking p => exact portsLaw_congr (portsLaw_assertPortReset h p) (by simp) (by simp)
  | mark d => exact portsLaw_congr h (by simp) (by simp)
  | advance => exact portsLaw_congr h (by simp [tick]) (by simp [tick])
  | purge _ i =>
    obtain ⟨_, _, hports, hexecutor⟩ := purgeStep_outside s _ i
    exact portsLaw_congr h hports hexecutor
  | reset pins => exact portsLaw_congr (portsLaw_afterReset pins) rfl rfl
  | startTime | timeBase | quota | control => exact portsLaw_congr h rfl rfl

/-! ### Postings (R163) -/

/-- The service of `r` ends at the ports: its response joins the outbound queue, or is discarded. -/
theorem portsLaw_post {r : Serving} (h : PortsLaw s) (hr : s.executor = some r) (code : ResultCode)
    (payload : List Byte) : PortsLaw (post s r code payload) := by
  obtain ⟨hport, _⟩ := portsLaw_iff.1 h
  refine portsLaw_iff.2 ⟨fun d => ?_, fun q hq => ?_⟩
  · have hmark : serviceMark (post s r code payload) d = none := by rw [serviceMark, post_executor]
    have hserved : ∀ d, PortLawful (s.ports.get d) none := fun d => by
      have hd := hport d
      refine ⟨hd.inbound, ?_, hd.bodies, hd.flags, hd.taken, fun hreset => ?_⟩
      · have hreserved := hd.reserved
        simp only [Option.isSome_none, Bool.false_eq_true, if_false]
        omega
      · obtain ⟨hinbound, houtbound, hrefused, hmalformed, _, htransfer⟩ := hd.reset hreset
        exact ⟨hinbound, houtbound, hrefused, hmalformed, nofun, htransfer⟩
    rw [hmark]
    unfold post
    split
    · exact hserved d
    · next hkept =>
      show PortLawful ((s.ports.set r.port _).get d) none
      rw [Table.get_set]
      split
      · next hd =>
        have hin : serviceMark s r.port = some false := by
          rw [serviceMark, hr]
          simpa using hkept
        have hp := hport r.port
        rw [hin] at hp
        refine ⟨hp.inbound, ?_, hp.bodies, hp.flags, hp.taken, fun hreset => ?_⟩
        · have hreserved := hp.reserved
          simp only [Option.isSome_some, if_true] at hreserved
          simp only [Option.isSome_none, Bool.false_eq_true, if_false, List.length_append, List.length_singleton]
          omega
        · obtain ⟨_, _, _, _, hmark, _⟩ := hp.reset hreset
          exact absurd rfl hmark
      · exact hserved d
  · rw [post_executor] at hq
    cases hq

end

end Sys2Proof.Machine
end

section
/-! CERTIFICATE. The laws of the ports as every command leaves them (09_client_ports.md). -/

namespace Sys2Proof.Claims

open Sys2Proof.Machine Sys2Proof.Safety

/-- Settles O5: a SUBMIT adds a frame below both limits, a selection and a posting move one place of the reservation count, and no
transfer is heard, nor any response posted, at a port in RESET. -/
theorem portsLawKept : Obligations.PortsLawKept := by
  refine keptByStep_of_exec (fun _ _ h => h) fun c s t hs hexec => ?_
  obtain hc | ⟨r, code, payload, u, hr, hc, ⟨_, hexecutor⟩, _, rfl⟩ := exec_change hexec
  · exact portsLaw_change hs hc
  · exact portsLaw_post (portsLaw_change hs hc) (hexecutor.trans hr) code payload

end Sys2Proof.Claims
end

section
/-! SUPPORT. What the rule of each kind of request can put in a response: no code of the general checks, and a payload that fits a
body of 124 bytes. -/

namespace Sys2Proof.Machine

open Sys2Proof.Safety

/-! ### Proper answers -/

/-- An answer by a request's own rule: a refusal with no code of steps 2 and 3 of the check order, or a payload that fits a response
with the kind, the sequence value and the code before it (R170, R182). -/
def Answer.Proper : Answer → Prop
  | .refuse code => code ≠ .badLength ∧ code ≠ .denied
  | .accept _ payload _ => payload.length ≤ Config.responseLimit - 3

theorem proper_refuse {code : ResultCode} (h : code ≠ .badLength ∧ code ≠ .denied) : (Answer.refuse code).Proper := h

theorem proper_accept {code : ResultCode} {payload : List Byte} {t : State} (h : payload.length ≤ 121) :
    (Answer.accept code payload t).Proper := h

/-- A payload of items that are all sent has a length that computes. -/
theorem proper_of_items {code : ResultCode} {payload : List Byte} {t : State}
    (h : Nat.ble payload.length 121 = true) : (Answer.accept code payload t).Proper := Nat.le_of_ble_eq_true h

theorem proper_withOwned {s : State} {c : Client} {h : Handle} {act : Rec → Answer} (hact : ∀ x, (act x).Proper) :
    (withOwned s c h act).Proper := by
  unfold withOwned
  split
  · exact proper_refuse (by decide)
  · next x _ =>
    split
    · exact hact x
    · exact proper_refuse (by decide)

theorem proper_withIdle {s : State} {c : Client} {h : Handle} {act : Rec → Answer} (hact : ∀ x, (act x).Proper) :
    (withIdle s c h act).Proper := by
  refine proper_withOwned fun x => ?_
  split
  · exact hact x
  · exact proper_refuse (by decide)

theorem proper_withIncoming {s : State} {c : Client} {h : Handle} {act : Rec → Offer → Answer}
    (hact : ∀ x o, (act x o).Proper) : (withIncoming s c h act).Proper := by
  unfold withIncoming
  split
  · exact proper_refuse (by decide)
  · next x _ =>
    split
    · exact proper_refuse (by decide)
    · next o _ =>
      split
      · exact hact x o
      · exact proper_refuse (by decide)

/-! ### Lengths of payloads -/

/-- A list of reports of at most `n` bytes each. -/
theorem length_flatMap_le {α : Type} {f : α → List Byte} {n : Nat} (hf : ∀ a, (f a).length ≤ n) (l : List α) :
    (l.flatMap f).length ≤ l.length * n := by
  rw [List.length_flatMap, ← List.length_map (f := fun a => (f a).length) (as := l), ← smul_eq_mul]
  exact List.sum_le_card_nsmul _ _ (by simpa using fun a _ => hf a)

theorem length_collectReport_le (s : State) (i : SlotId) : (collectReport s i).length ≤ 14 := by
  unfold collectReport
  split
  · exact Nat.zero_le 14
  · exact Nat.le_refl 14

/-- The entries laid fit the room (R177). -/
theorem length_layEntries_le (room : Nat) (l : List (List Byte)) : (layEntries room l).flatten.length ≤ room := by
  induction l generalizing room with
  | nil => exact Nat.zero_le room
  | cons e rest ih =>
    rw [layEntries]
    split
    · next hfits =>
      have hrest := ih (room - e.length)
      rw [List.flatten_cons, List.length_append]
      omega
    · exact Nat.zero_le room

theorem length_dueAndRemaining_le (now : Time) (due : Option Time) (remaining : Option Nat) :
    (dueAndRemaining now due remaining).length ≤ 10 := by
  have hdue := length_optBytes_le (length_timeAndTicks now) due
  have hremaining := length_optBytes_le length_byte3 remaining
  rw [dueAndRemaining, List.length_append]
  omega

theorem length_armPayload_le (now : Time) (x : Rec) : (armPayload now x).length ≤ 12 := by
  have htimes := length_dueAndRemaining_le now x.dueTime x.remaining
  simp only [armPayload, presence, byte1, List.length_append, List.length_cons, List.length_nil]
  omega

theorem length_revisePayload_le (now : Time) (x y : Rec) : (revisePayload now x y).length ≤ 22 := by
  have htimes := length_dueAndRemaining_le now (revisedDue y) y.remaining
  have hstaged := length_optBytes_le length_byte3 y.staged
  have hdisplaced := length_optBytes_le length_byte3 x.staged
  simp only [revisePayload, presence, byte1, byte3, List.length_append, List.length_cons, List.length_nil] at *
  omega

theorem length_lineItem (k : Line) : (byte1 k.val).length = 1 := rfl

theorem length_unbindPayload_le (kind : BindingKind) (released : Option Line) :
    (unbindPayload kind released).length ≤ 3 := by
  have hline := length_optBytes_le length_lineItem released
  simp only [unbindPayload, presence, byte1, List.length_append, List.length_cons, List.length_nil] at *
  omega

theorem length_acknowledgePayload_le (t : State) (c : Client) (first last : Option Time) (overrun : Nat) :
    (acknowledgePayload t c first last overrun).length ≤ 13 := by
  have hfirst := length_optBytes_le length_timeBytes first
  have hlast := length_optBytes_le length_timeBytes last
  simp only [acknowledgePayload, remainingAndLine, presence, byte1, byte2, yesNo, List.length_append, List.length_cons,
    List.length_nil]
  omega

theorem length_acceptPayload_le (t : State) (i : SlotId) (x : Rec) (o : Offer) (c : Client) :
    (acceptPayload t i x o c).length ≤ 16 := by
  have houtput := length_optBytes_le length_lineItem x.outputBinding
  have htrigger := length_optBytes_le length_lineItem x.triggerBinding
  simp only [acceptPayload, presence, byte1, byte2, yesNo, List.length_append, List.length_cons, List.length_nil] at *
  omega

/-- Whatever a record holds, its report fits a response. -/
theorem length_recordReport_fits (now : Time) (h : Handle) (x : Rec) (o : Option Offer) :
    (recordReport now h x o).length ≤ 37 := by
  have hstaged := length_optBytes_le length_byte3 x.staged
  have hdue := length_optBytes_le (length_timeAndTicks now) x.dueTime
  have hremaining := length_optBytes_le length_byte3 x.remaining
  have hline := length_lineByte_le x
  have hfirst := length_optBytes_le length_timeBytes x.firstFire
  have hlast := length_optBytes_le length_timeBytes x.lastFire
  have hoffer := length_optBytes_le (length_offerItem now) o
  rw [length_recordReport]
  omega

/-! ### Every kind -/

/-- QUERY: STALE, NOT_SHARED, or one report (R18). -/
theorem queryAnswer_proper (s : State) (r : Serving) : (queryAnswer s r).Proper := by
  unfold queryAnswer readRecord
  cases liveRecord s (argHandle r.body 2) with
  | none => exact proper_refuse (by decide)
  | some x =>
    dsimp only
    split_ifs
    · exact proper_accept ((length_recordReport_fits _ _ _ _).trans (by decide))
    · exact proper_refuse (by decide)

theorem collectAnswer_proper (s : State) (r : Serving) : (collectAnswer s r).Proper := by
  unfold collectAnswer
  split
  · exact proper_refuse (by decide)
  · next hrange =>
    rw [not_or, Nat.not_lt] at hrange
    obtain ⟨_, hcount⟩ := hrange
    have hlimit : Config.listLimit = 8 := rfl
    have htaken : ((s.attn.get r.port).set.take (arg1 r.body 2)).length ≤ 8 := by
      rw [List.length_take]
      omega
    have hreports := length_flatMap_le (length_collectReport_le s) ((s.attn.get r.port).set.take (arg1 r.body 2))
    refine proper_accept ?_
    simp only [remainingAndLine, byte1, byte2, yesNo, List.length_append, List.length_cons, List.length_nil]
    omega

theorem listOffersAnswer_proper (s : State) (r : Serving) : (listOffersAnswer s r).Proper := by
  have hlimit : Config.listLimit = 8 := rfl
  have hlisted : ((incomingOffers s r.port).take Config.listLimit).length ≤ 8 := by
    rw [List.length_take]
    omega
  have hreports := length_flatMap_le (f := offerReport s) (n := 6) (fun _ => Nat.le_refl 6)
    ((incomingOffers s r.port).take Config.listLimit)
  refine proper_accept ?_
  simp only [byte1, List.length_append, List.length_cons, List.length_nil]
  omega

theorem querySetAnswer_proper (s : State) (r : Serving) : (querySetAnswer s r).Proper := by
  unfold querySetAnswer
  split
  · exact proper_refuse (by decide)
  · refine proper_accept ?_
    have hentries : (setEntries s r).flatten.length ≤ 120 := length_layEntries_le _ _
    rw [byte1, List.length_append, List.length_singleton]
    omega

theorem createAnswer_proper (s : State) (r : Serving) : (createAnswer s r).Proper := by
  unfold createAnswer createRecord
  split
  · split_ifs
    · exact proper_refuse (by decide)
    · exact proper_refuse (by decide)
    · split
      · exact proper_refuse (by decide)
      · exact proper_of_items rfl
  · exact proper_refuse (by decide)

theorem armAnswer_proper (s : State) (r : Serving) : (armAnswer s r).Proper := by
  refine proper_withOwned fun x => ?_
  split_ifs
  · exact proper_refuse (by decide)
  · exact proper_refuse (by decide)
  · exact proper_accept ((length_armPayload_le _ _).trans (by decide))

theorem disarmAnswer_proper (s : State) (r : Serving) : (disarmAnswer s r).Proper := by
  refine proper_withOwned fun x => ?_
  split
  · exact proper_refuse (by decide)
  · exact proper_of_items rfl

theorem reviseAnswer_proper (s : State) (r : Serving) : (reviseAnswer s r).Proper := by
  unfold reviseAnswer
  split
  · exact proper_refuse (by decide)
  · exact proper_withOwned fun x => proper_accept ((length_revisePayload_le _ _ _).trans (by decide))

theorem relabelAnswer_proper (s : State) (r : Serving) : (relabelAnswer s r).Proper := by
  unfold relabelAnswer
  split
  · exact proper_withOwned fun x => proper_of_items rfl
  · exact proper_refuse (by decide)

theorem bindOutputAnswer_proper (s : State) (r : Serving) : (bindOutputAnswer s r).Proper := by
  unfold bindOutputAnswer
  split
  · exact proper_refuse (by decide)
  · refine proper_withIdle fun x => ?_
    split
    · exact proper_refuse (by decide)
    · exact proper_of_items rfl

theorem bindTriggerAnswer_proper (s : State) (r : Serving) : (bindTriggerAnswer s r).Proper := by
  unfold bindTriggerAnswer
  split
  · exact proper_refuse (by decide)
  · exact proper_withIdle fun x => proper_of_items rfl

theorem unbindAnswer_proper (s : State) (r : Serving) : (unbindAnswer s r).Proper := by
  unfold unbindAnswer
  split
  · exact proper_refuse (by decide)
  · exact proper_withIdle fun x => proper_accept ((length_unbindPayload_le _ _).trans (by decide))

theorem configureTriggerAnswer_proper (s : State) (r : Serving) : (configureTriggerAnswer s r).Proper := by
  unfold configureTriggerAnswer
  split
  · split
    · exact proper_refuse (by decide)
    · exact proper_of_items rfl
  · exact proper_refuse (by decide)

theorem configureOutputAnswer_proper (s : State) (r : Serving) : (configureOutputAnswer s r).Proper := by
  unfold configureOutputAnswer
  split
  · split
    · exact proper_refuse (by decide)
    · exact proper_of_items rfl
  · exact proper_refuse (by decide)

theorem acknowledgeAnswer_proper (s : State) (r : Serving) : (acknowledgeAnswer s r).Proper := by
  refine proper_withOwned fun x => ?_
  split
  · exact proper_accept ((length_acknowledgePayload_le _ _ _ _ _).trans (by decide))
  · exact proper_accept ((length_acknowledgePayload_le _ _ _ _ _).trans (by decide))

theorem setMaskAnswer_proper (s : State) (r : Serving) : (setMaskAnswer s r).Proper := by
  unfold setMaskAnswer
  split
  · exact proper_refuse (by decide)
  · exact proper_of_items rfl

theorem offerAnswer_proper (s : State) (r : Serving) : (offerAnswer s r).Proper := by
  unfold offerAnswer
  split
  · exact proper_refuse (by decide)
  · split
    · exact proper_refuse (by decide)
    · refine proper_withOwned fun x => ?_
      unfold offerRecord
      split_ifs
      · exact proper_refuse (by decide)
      · exact proper_refuse (by decide)
      · exact proper_refuse (by decide)
      · exact proper_of_items rfl

theorem acceptAnswer_proper (s : State) (r : Serving) : (acceptAnswer s r).Proper := by
  refine proper_withIncoming fun x o => ?_
  split
  · exact proper_refuse (by decide)
  · exact proper_accept ((length_acceptPayload_le _ _ _ _ _).trans (by decide))

theorem withdrawAnswer_proper (s : State) (r : Serving) : (withdrawAnswer s r).Proper := by
  refine proper_withOwned fun _ => ?_
  split
  · exact proper_refuse (by decide)
  · exact proper_of_items rfl

theorem startTimeAnswer_proper (s : State) (r : Serving) : (startTimeAnswer s r).Proper := by
  unfold startTimeAnswer
  split_ifs
  · exact proper_refuse (by decide)
  · exact proper_refuse (by decide)
  · exact proper_of_items rfl

theorem stopTimeAnswer_proper (s : State) (r : Serving) : (stopTimeAnswer s r).Proper := by
  unfold stopTimeAnswer
  split
  · exact proper_refuse (by decide)
  · exact proper_of_items rfl

theorem setReleasePolicyAnswer_proper (s : State) (r : Serving) : (setReleasePolicyAnswer s r).Proper := by
  unfold setReleasePolicyAnswer
  split
  · exact proper_refuse (by decide)
  · exact proper_of_items rfl

theorem setQuotaAnswer_proper (s : State) (r : Serving) : (setQuotaAnswer s r).Proper := by
  unfold setQuotaAnswer
  split
  · exact proper_refuse (by decide)
  · split_ifs
    · exact proper_refuse (by decide)
    · exact proper_refuse (by decide)
    · exact proper_of_items rfl

theorem grantControlAnswer_proper (s : State) (r : Serving) : (grantControlAnswer s r).Proper := by
  unfold grantControlAnswer
  split
  · exact proper_refuse (by decide)
  · exact proper_of_items rfl

theorem revokeControlAnswer_proper (s : State) (r : Serving) : (revokeControlAnswer s r).Proper := by
  unfold revokeControlAnswer
  split
  · exact proper_refuse (by decide)
  · split
    · exact proper_refuse (by decide)
    · exact proper_of_items rfl

theorem purgeClientAnswer_proper (s : State) (r : Serving) : (purgeClientAnswer s r).Proper := by
  unfold purgeClientAnswer
  split
  · exact proper_refuse (by decide)
  · split
    · exact proper_refuse (by decide)
    · exact proper_of_items rfl

theorem ruleOf_proper (k : Kind) (s : State) (r : Serving) : (ruleOf k s r).Proper := by
  cases k with
  | create => exact createAnswer_proper s r
  | retire => exact proper_withOwned fun _ => proper_of_items rfl
  | arm => exact armAnswer_proper s r
  | disarm => exact disarmAnswer_proper s r
  | revise => exact reviseAnswer_proper s r
  | relabel => exact relabelAnswer_proper s r
  | query => exact queryAnswer_proper s r
  | querySet => exact querySetAnswer_proper s r
  | bindOutput => exact bindOutputAnswer_proper s r
  | bindTrigger => exact bindTriggerAnswer_proper s r
  | unbind => exact unbindAnswer_proper s r
  | collect => exact collectAnswer_proper s r
  | acknowledge => exact acknowledgeAnswer_proper s r
  | setMask => exact setMaskAnswer_proper s r
  | offer => exact offerAnswer_proper s r
  | accept => exact acceptAnswer_proper s r
  | decline => exact proper_withIncoming fun _ _ => proper_of_items rfl
  | withdraw => exact withdrawAnswer_proper s r
  | listOffers => exact listOffersAnswer_proper s r
  | startTime => exact startTimeAnswer_proper s r
  | stopTime => exact stopTimeAnswer_proper s r
  | setReleasePolicy => exact setReleasePolicyAnswer_proper s r
  | configureTrigger => exact configureTriggerAnswer_proper s r
  | configureOutput => exact configureOutputAnswer_proper s r
  | setQuota => exact setQuotaAnswer_proper s r
  | grantControl => exact grantControlAnswer_proper s r
  | revokeControl => exact revokeControlAnswer_proper s r
  | purgeClient => exact purgeClientAnswer_proper s r
  | readTime | holdTime | releaseTime | deviceStatus => exact proper_of_items rfl

/-! ### The responses waiting (R158, R182) -/

theorem responsesLaw_congr {s t : State} (h : ResponsesLaw s) (hports : t.ports = s.ports) : ResponsesLaw t := by
  intro p
  rw [hports]
  exact h p

/-- No response joins an outbound queue. -/
theorem responsesLaw_of_sublist {s t : State} (h : ResponsesLaw s)
    (hsub : ∀ p, ((t.ports.get p).outbound).Sublist (s.ports.get p).outbound) : ResponsesLaw t :=
  fun p body hbody => h p body ((hsub p).subset hbody)

theorem outbound_set_sublist {ports : Table Port 4} {p : Client} {q : Port}
    (hq : q.outbound.Sublist (ports.get p).outbound) (d : Client) :
    ((ports.set p q).get d).outbound.Sublist (ports.get d).outbound := by
  rw [Table.get_set]
  split
  · next hd => rwa [hd]
  · exact List.Sublist.refl _

/-- Transfers only take responses off the outbound queue (R159). -/
theorem PortMove.outbound {s : State} {p : Client} {q : Port} (h : PortMove s p q) :
    q.outbound.Sublist (s.ports.get p).outbound := by
  cases h with
  | falls | chooses | ends | released => exact List.Sublist.refl _
  | submits _ n mosi =>
    show (judgeSubmit s p mosi).outbound.Sublist _
    unfold judgeSubmit
    split
    · exact List.Sublist.refl _
    · split <;> exact List.Sublist.refl _
  | fetches chosen n =>
    show (fetchedQueue (s.ports.get p) chosen n).outbound.Sublist _
    unfold fetchedQueue
    split
    · exact List.tail_sublist _
    · exact List.Sublist.refl _

theorem responsesLaw_assertPortReset {s : State} (h : ResponsesLaw s) (p : Client) : ResponsesLaw (assertPortReset s p) :=
  responsesLaw_of_sublist h (outbound_set_sublist (List.nil_sublist _))

theorem responsesLaw_afterReset (pins : Pins) : ResponsesLaw (State.afterReset pins) := by
  intro p body hbody
  have hnone : ((portsAfterReset pins).get p).outbound = [] := by rw [portsAfterReset_get]; rfl
  have hin : body ∈ ((portsAfterReset pins).get p).outbound := hbody
  rw [hnone] at hin
  cases hin

theorem responsesLaw_change {s t : State} {c : Instr} (h : ResponsesLaw s) (hc : Change s c t) : ResponsesLaw t := by
  cases hc with
  | records hr => exact responsesLaw_congr h hr.sameOutside.ports
  | link hq => exact responsesLaw_of_sublist h (outbound_set_sublist hq.outbound)
  | select => exact responsesLaw_of_sublist h (outbound_set_sublist (List.Sublist.refl _))
  | portReset p => exact responsesLaw_assertPortReset h p
  | portResetMarking p => exact responsesLaw_congr (responsesLaw_assertPortReset h p) (by simp)
  | mark d => exact responsesLaw_congr h (by simp)
  | advance => exact responsesLaw_congr h (by simp [tick])
  | purge _ i =>
    obtain ⟨_, _, hports, _⟩ := purgeStep_outside s _ i
    exact responsesLaw_congr h hports
  | reset pins => exact responsesLaw_congr (responsesLaw_afterReset pins) rfl
  | startTime | timeBase | quota | control => exact responsesLaw_congr h rfl

/-- A response posted has a body of the kind, the sequence value, the code and the payload (R175). -/
theorem responsesLaw_post {s : State} (h : ResponsesLaw s) (r : Serving) (code : ResultCode) {payload : List Byte}
    (hne : payload ≠ []) (hlength : payload.length ≤ 121) : ResponsesLaw (post s r code payload) := by
  unfold post
  split
  · exact h
  · intro p body hbody
    have hin : body ∈ ((s.ports.set r.port
        { s.ports.get r.port with
          outbound := (s.ports.get r.port).outbound ++ [bodyByte r.body 0 :: bodyByte r.body 1 :: code.byte :: payload] }).get
        p).outbound := hbody
    rw [Table.get_set] at hin
    split at hin
    · obtain hold | hnew := List.mem_append.1 hin
      · exact h r.port body hold
      · have hpos := List.length_pos_iff.2 hne
        have hlimit : Config.responseLimit = 124 := rfl
        rw [List.mem_singleton.1 hnew]
        simp only [List.length_cons]
        omega
    · exact h p body hin

end Sys2Proof.Machine
end

section
/-! CERTIFICATE. The responses waiting as every command leaves them (09_client_ports.md, 10_request_reference.md). -/

namespace Sys2Proof.Claims

open Sys2Proof.Machine Sys2Proof.Safety

/-- Settles O6: a response joins a queue only by a posting, and the payload posted is a refusal's zero byte or that of a rule, which
has a byte at least and fits. -/
theorem responsesLawKept : Obligations.ResponsesLawKept := by
  refine keptByStep_of_exec (fun _ _ h => h) fun c s t hs hexec => ?_
  obtain hc | ⟨r, code, payload, u, _, hc, _, hpayload, rfl⟩ := exec_change hexec
  · exact responsesLaw_change hs hc
  · obtain hrefusal | ⟨k, ha⟩ := hpayload
    · subst hrefusal
      exact responsesLaw_post (responsesLaw_change hs hc) r code (List.cons_ne_nil _ _) (by decide)
    · have hproper := ruleOf_proper k s r
      have hcompletes := ruleOf_completes k s r
      rw [ha] at hproper hcompletes
      obtain ⟨_, hne, _⟩ := hcompletes
      exact responsesLaw_post (responsesLaw_change hs hc) r code hne hproper

end Sys2Proof.Claims
end

section
/-! SUPPORT. The check order: what the general checks answer, and what an argument out of its range reads as. -/

namespace Sys2Proof.Machine

open Sys2Proof.Safety Sys2Proof.Claims

/-! ### Steps 1 to 4 (R171, R172) -/

/-- A kind byte of the catalogue is the code of its kind (Table 10-1). -/
theorem eq_code_of_kindOf {b : Byte} {k : Kind} (h : kindOf b = some k) : b = k.code := by
  unfold kindOf at h
  split at h <;> cases h <;> exact BitVec.eq_of_toNat_eq ‹_›

theorem head?_eq_bodyByte {body : List Byte} (h : body ≠ []) : body.head? = some (bodyByte body 0) := by
  obtain ⟨b, rest, rfl⟩ := List.exists_cons_of_ne_nil h
  rfl

/-- The rule of a kind never answers with the codes of steps 2 and 3. -/
theorem ruleOf_code {k : Kind} {s t : State} {r : Serving} {code : ResultCode} {payload : List Byte}
    (h : ruleOf k s r = .accept code payload t) : code ≠ .badLength ∧ code ≠ .denied := by
  have hcompletes := ruleOf_completes k s r
  rw [h] at hcompletes
  obtain ⟨hsuccess, _⟩ := hcompletes
  exact ⟨fun hcode => by rw [hcode] at hsuccess; exact absurd hsuccess (by decide),
    fun hcode => by rw [hcode] at hsuccess; exact absurd hsuccess (by decide)⟩

section

variable {s : State} {r : Serving} {k : Kind}

theorem judge_of_code {code : ResultCode} (h : generalCheck s k r = some code) :
    judge s k r (ruleOf k) = .refuse code := by rw [judge, h]

theorem judge_of_passes (h : generalCheck s k r = none) : judge s k r (ruleOf k) = ruleOf k s r := by rw [judge, h]

theorem generalCheck_of_length (h : r.body.length ≠ 2 + argumentBytes r.body k) :
    generalCheck s k r = some .badLength := by
  rw [← bodyLength_eq] at h
  exact if_pos h

theorem generalCheck_of_denied (hlength : r.body.length = 2 + argumentBytes r.body k) (hk : k.isControl = true)
    (hport : s.control.get r.port = false) : generalCheck s k r = some .denied := by
  rw [← bodyLength_eq] at hlength
  rw [generalCheck, if_neg (not_not.2 hlength), if_pos ⟨hk, hport⟩]

theorem generalCheck_of_purging (hlength : r.body.length = 2 + argumentBytes r.body k)
    (hcontrol : k.isControl = true → s.control.get r.port = true) (hexempt : k.purgeExempt = false)
    (hpurging : s.purging.get r.port = true) : generalCheck s k r = some .purging := by
  rw [← bodyLength_eq] at hlength
  have hgranted : ¬ (k.isControl = true ∧ s.control.get r.port = false) := fun ⟨hk, hport⟩ => by
    rw [hcontrol hk] at hport
    cases hport
  rw [generalCheck, if_neg (not_not.2 hlength), if_neg hgranted, if_pos ⟨hpurging, hexempt⟩]

theorem generalCheck_of_passes (hlength : r.body.length = 2 + argumentBytes r.body k) (hpasses : Passes s r.port k) :
    generalCheck s k r = none := by
  rw [← bodyLength_eq] at hlength
  obtain ⟨hcontrol, hnormal⟩ := hpasses
  have hgranted : ¬ (k.isControl = true ∧ s.control.get r.port = false) := fun ⟨hk, hport⟩ => by
    rw [hcontrol hk] at hport
    cases hport
  have htaken : ¬ (s.purging.get r.port = true ∧ k.purgeExempt = false) := fun ⟨hpurging, hexempt⟩ => by
    rw [hnormal hexempt] at hpurging
    cases hpurging
  rw [generalCheck, if_neg (not_not.2 hlength), if_neg hgranted, if_neg htaken]

theorem purgeExempt_eq_false (hread : k ≠ .readTime) (hstatus : k ≠ .deviceStatus) : k.purgeExempt = false := by
  cases k with
  | readTime => exact absurd rfl hread
  | deviceStatus => exact absurd rfl hstatus
  | _ => rfl

/-! ### Step 5: arguments out of range (R173, R174) -/

theorem byte1_reads {n : Nat} (h : n < 256) : (BitVec.ofNat 8 n).toNat = n := by
  rw [BitVec.toNat_ofNat]
  exact Nat.mod_eq_of_lt h

theorem lt_of_below {m n : Nat} {v : Fin m} (h : below m n = some v) : n < m := by
  unfold below at h
  split at h
  · assumption
  · cases h

theorem below_eq_none {m n : Nat} (h : m ≤ n) : below m n = none := dif_neg (Nat.not_lt.2 h)

theorem eq_code_of_modeOf {n : Nat} {mode : Mode} (h : modeOf n = some mode) : n = mode.code := by
  unfold modeOf at h
  split at h <;> cases h <;> rfl

theorem le_one_of_shareOf {n : Nat} {b : Bool} (h : shareOf n = some b) : n ≤ 1 := by
  unfold shareOf at h
  split at h <;> cases h <;> decide

theorem le_one_of_levelOf {n : Nat} {l : Level} (h : levelOf n = some l) : n ≤ 1 := by
  unfold levelOf at h
  split at h <;> cases h <;> decide

theorem bindingKindOf_eq_none {n : Nat} (h : 1 < n) : bindingKindOf n = none := by
  unfold bindingKindOf
  split
  · omega
  · omega
  · rfl

theorem policyOf_eq_none {n : Nat} (h : 1 < n) : policyOf n = none := by
  unfold policyOf
  split
  · omega
  · omega
  · rfl

theorem mode_code_le (mode : Mode) : mode.code ≤ 4 := by cases mode <;> decide

/-- A period of 1 is too short for the modes of codes 1 and 2. -/
theorem periodTooShort_of_code {mode : Mode} (h : mode.code = Mode.cyclic.code ∨ mode.code = Mode.square.code) :
    periodTooShort mode 1 = true := by
  cases mode with
  | cyclic | square => rfl
  | single | delayed | watch => exact absurd h (by decide)

variable {seq : Byte} {args : List Byte}

theorem createAnswer_of_outOfRange (hb : r.body = Kind.create.code :: seq :: args)
    (hout : OutOfRange s r.port .create args) : createAnswer s r = .refuse .badField := by
  obtain ⟨mode, period, priority, tag, share, hmode, hperiod, hpriority, _, hshare, rfl, hrange⟩ := hout
  have hmode2 : arg1 r.body 2 = mode := by rw [hb]; exact byte1_reads hmode
  have hperiod3 : arg3 r.body 3 = period := by rw [hb]; exact byte3_reads (by omega)
  have hpriority6 : arg1 r.body 6 = priority := by rw [hb]; exact byte1_reads hpriority
  have hshare9 : arg1 r.body 9 = share := by rw [hb]; exact byte1_reads hshare
  rw [createAnswer, hmode2, hperiod3, hpriority6, hshare9]
  split
  · next m _ _ hm hp hs =>
    have hcode := eq_code_of_modeOf hm
    have hfour := mode_code_le m
    have hp4 := lt_of_below hp
    have hs1 := le_one_of_shareOf hs
    refine if_pos ?_
    obtain hbad | hzero | ⟨hone, hcodes⟩ | hbad | hbad := hrange
    · omega
    · exact .inl hzero
    · rw [hone]
      exact .inr (periodTooShort_of_code (hcode ▸ hcodes))
    · omega
    · omega
  · rfl

theorem reviseAnswer_of_outOfRange (hb : r.body = Kind.revise.code :: seq :: args)
    (hout : OutOfRange s r.port .revise args) : reviseAnswer s r = .refuse .badField := by
  obtain ⟨h, n, hn, rfl, hrange⟩ := hout
  have hhandle : argHandle r.body 2 = h := by rw [hb]; exact argHandle_first h _
  have hperiod : arg3 r.body 4 = n := by rw [hb]; exact byte3_reads (by omega)
  rw [reviseAnswer, hhandle, hperiod]
  refine if_pos ?_
  obtain hzero | ⟨hone, x, hx, hmode⟩ := hrange
  · exact .inl hzero
  · rw [hone, reviseTooShort, names_iff_live.1 hx]
    refine .inr (periodTooShort_of_code ?_)
    exact hmode.imp (congrArg Mode.code) (congrArg Mode.code)

theorem relabelAnswer_of_outOfRange (hb : r.body = Kind.relabel.code :: seq :: args)
    (hout : OutOfRange s r.port .relabel args) : relabelAnswer s r = .refuse .badField := by
  obtain ⟨h, tag, priority, share, _, hpriority, hshare, rfl, hrange⟩ := hout
  have hpriority6 : arg1 r.body 6 = priority := by rw [hb]; exact byte1_reads hpriority
  have hshare7 : arg1 r.body 7 = share := by rw [hb]; exact byte1_reads hshare
  rw [relabelAnswer, hpriority6, hshare7]
  split
  · next hp hs =>
    have hp4 := lt_of_below hp
    have hs1 := le_one_of_shareOf hs
    omega
  · rfl

/-- The count byte of a QUERY-SET or COLLECT: 1 to 8 (R20, R127). -/
theorem count_outOfRange {n : Nat} (h : n = 0 ∨ 8 < n) : n = 0 ∨ Config.listLimit < n := h

theorem querySetAnswer_of_outOfRange (hb : r.body = Kind.querySet.code :: seq :: args)
    (hout : OutOfRange s r.port .querySet args) : querySetAnswer s r = .refuse .badField := by
  obtain ⟨n, rest, hn, rfl, _, hrange⟩ := hout
  have hcount : arg1 r.body 2 = n := by rw [hb]; exact byte1_reads hn
  rw [querySetAnswer, hcount]
  exact if_pos (count_outOfRange hrange)

theorem collectAnswer_of_outOfRange (hb : r.body = Kind.collect.code :: seq :: args)
    (hout : OutOfRange s r.port .collect args) : collectAnswer s r = .refuse .badField := by
  obtain ⟨n, hn, rfl, hrange⟩ := hout
  have hcount : arg1 r.body 2 = n := by rw [hb]; exact byte1_reads hn
  rw [collectAnswer, hcount]
  exact if_pos (count_outOfRange hrange)

theorem bindOutputAnswer_of_outOfRange (hb : r.body = Kind.bindOutput.code :: seq :: args)
    (hout : OutOfRange s r.port .bindOutput args) : bindOutputAnswer s r = .refuse .badField := by
  obtain ⟨h, line, hline, rfl, hrange⟩ := hout
  have hline4 : arg1 r.body 4 = line := by rw [hb]; exact byte1_reads hline
  rw [bindOutputAnswer, hline4, below_eq_none hrange]

theorem bindTriggerAnswer_of_outOfRange (hb : r.body = Kind.bindTrigger.code :: seq :: args)
    (hout : OutOfRange s r.port .bindTrigger args) : bindTriggerAnswer s r = .refuse .badField := by
  obtain ⟨h, line, hline, rfl, hrange⟩ := hout
  have hline4 : arg1 r.body 4 = line := by rw [hb]; exact byte1_reads hline
  rw [bindTriggerAnswer, hline4, below_eq_none hrange]

theorem unbindAnswer_of_outOfRange (hb : r.body = Kind.unbind.code :: seq :: args)
    (hout : OutOfRange s r.port .unbind args) : unbindAnswer s r = .refuse .badField := by
  obtain ⟨h, kind, hkind, rfl, hrange⟩ := hout
  have hkind4 : arg1 r.body 4 = kind := by rw [hb]; exact byte1_reads hkind
  rw [unbindAnswer, hkind4, bindingKindOf_eq_none hrange]

theorem setMaskAnswer_of_outOfRange (hb : r.body = Kind.setMask.code :: seq :: args)
    (hout : OutOfRange s r.port .setMask args) : setMaskAnswer s r = .refuse .badField := by
  obtain ⟨n, hn, rfl, hrange⟩ := hout
  have hmask : arg1 r.body 2 = n := by rw [hb]; exact byte1_reads hn
  rw [setMaskAnswer, hmask]
  exact if_pos hrange

theorem offerAnswer_of_outOfRange (hb : r.body = Kind.offer.code :: seq :: args)
    (hout : OutOfRange s r.port .offer args) : offerAnswer s r = .refuse .badField := by
  obtain ⟨h, client, n, hclient, hn, rfl, hrange⟩ := hout
  have hclient4 : arg1 r.body 4 = client := by rw [hb]; exact byte1_reads hclient
  have hn5 : arg3 r.body 5 = n := by rw [hb]; exact byte3_reads (by omega)
  rw [offerAnswer, hclient4, hn5]
  split
  · rfl
  · next receiver hreceiver =>
    refine if_pos ?_
    obtain hbad | hself | hzero := hrange
    · have hfour := lt_of_below hreceiver
      omega
    · refine .inl ?_
      subst hself
      rw [below, dif_pos r.port.isLt] at hreceiver
      exact (Option.some.inj hreceiver).symm
    · exact .inr hzero

theorem startTimeAnswer_of_outOfRange (hb : r.body = Kind.startTime.code :: seq :: args)
    (hout : OutOfRange s r.port .startTime args) : startTimeAnswer s r = .refuse .badField := by
  obtain ⟨time, n, hn, rfl, hrange⟩ := hout
  have hprescaler : arg3 r.body 6 = n := by rw [hb]; exact arg3_after_timeBytes time (by omega)
  rw [startTimeAnswer, hprescaler]
  exact if_pos hrange

theorem setReleasePolicyAnswer_of_outOfRange (hb : r.body = Kind.setReleasePolicy.code :: seq :: args)
    (hout : OutOfRange s r.port .setReleasePolicy args) : setReleasePolicyAnswer s r = .refuse .badField := by
  obtain ⟨n, hn, rfl, hrange⟩ := hout
  have hpolicy : arg1 r.body 2 = n := by rw [hb]; exact byte1_reads hn
  rw [setReleasePolicyAnswer, hpolicy, policyOf_eq_none hrange]

/-- The line and the polarity of a CONFIGURE request, one of them out of its range, do not both read. -/
theorem not_configures {line polarity : Nat} (hrange : 15 < line ∨ 1 < polarity) {k : Line} {l : Level}
    (hk : below 16 line = some k) (hl : levelOf polarity = some l) : False := by
  have hline := lt_of_below hk
  have hpolarity := le_one_of_levelOf hl
  omega

theorem configureTriggerAnswer_of_outOfRange (hb : r.body = Kind.configureTrigger.code :: seq :: args)
    (hout : OutOfRange s r.port .configureTrigger args) : configureTriggerAnswer s r = .refuse .badField := by
  obtain ⟨line, polarity, hline, hpolarity, rfl, hrange⟩ := hout
  have hline2 : arg1 r.body 2 = line := by rw [hb]; exact byte1_reads hline
  have hpolarity3 : arg1 r.body 3 = polarity := by rw [hb]; exact byte1_reads hpolarity
  rw [configureTriggerAnswer, hline2, hpolarity3]
  split
  · next hk hl => exact (not_configures hrange hk hl).elim
  · rfl

theorem configureOutputAnswer_of_outOfRange (hb : r.body = Kind.configureOutput.code :: seq :: args)
    (hout : OutOfRange s r.port .configureOutput args) : configureOutputAnswer s r = .refuse .badField := by
  obtain ⟨line, polarity, hline, hpolarity, rfl, hrange⟩ := hout
  have hline2 : arg1 r.body 2 = line := by rw [hb]; exact byte1_reads hline
  have hpolarity3 : arg1 r.body 3 = polarity := by rw [hb]; exact byte1_reads hpolarity
  rw [configureOutputAnswer, hline2, hpolarity3]
  split
  · next hk hl => exact (not_configures hrange hk hl).elim
  · rfl

theorem setQuotaAnswer_of_outOfRange (hb : r.body = Kind.setQuota.code :: seq :: args)
    (hout : OutOfRange s r.port .setQuota args) : setQuotaAnswer s r = .refuse .badField := by
  obtain ⟨client, n, hclient, hn, rfl, hrange⟩ := hout
  have hclient2 : arg1 r.body 2 = client := by rw [hb]; exact byte1_reads hclient
  have hquota3 : arg2 r.body 3 = n := by rw [hb]; exact byte2_reads hn
  rw [setQuotaAnswer, hclient2, hquota3]
  split
  · rfl
  · next hc =>
    have hfour := lt_of_below hc
    refine if_pos ?_
    have hsize : Config.tableSize = 2048 := rfl
    omega

theorem grantControlAnswer_of_outOfRange (hb : r.body = Kind.grantControl.code :: seq :: args)
    (hout : OutOfRange s r.port .grantControl args) : grantControlAnswer s r = .refuse .badField := by
  obtain ⟨n, hn, rfl, hrange⟩ := hout
  have hclient : arg1 r.body 2 = n := by rw [hb]; exact byte1_reads hn
  rw [grantControlAnswer, hclient, below_eq_none hrange]

theorem purgeClientAnswer_of_outOfRange (hb : r.body = Kind.purgeClient.code :: seq :: args)
    (hout : OutOfRange s r.port .purgeClient args) : purgeClientAnswer s r = .refuse .badField := by
  obtain ⟨n, hn, rfl, hrange⟩ := hout
  have hclient : arg1 r.body 2 = n := by rw [hb]; exact byte1_reads hn
  rw [purgeClientAnswer, hclient, below_eq_none hrange]

/-- Client 0 is named by no REVOKE-CONTROL (R174). -/
theorem revokeControlAnswer_of_outOfRange (hb : r.body = Kind.revokeControl.code :: seq :: args)
    (hout : OutOfRange s r.port .revokeControl args) : revokeControlAnswer s r = .refuse .badField := by
  obtain ⟨n, hn, rfl, hrange⟩ := hout
  have hclient : arg1 r.body 2 = n := by rw [hb]; exact byte1_reads hn
  rw [revokeControlAnswer, hclient]
  split
  · rfl
  · next c hc =>
    have hfour := lt_of_below hc
    have hzero : n = 0 := by omega
    subst hzero
    exact if_pos (Option.some.inj hc).symm

/-- Arguments out of range have the length their kind requires. -/
theorem length_of_outOfRange (hb : r.body = k.code :: seq :: args) (hout : OutOfRange s r.port k args) :
    args.length = argumentBytes r.body k := by
  cases k with
  | create => obtain ⟨_, _, _, _, _, _, _, _, _, _, rfl, _⟩ := hout; rfl
  | revise => obtain ⟨_, _, _, rfl, _⟩ := hout; rfl
  | relabel => obtain ⟨_, _, _, _, _, _, _, rfl, _⟩ := hout; rfl
  | querySet =>
    obtain ⟨n, rest, hn, rfl, hlength, _⟩ := hout
    have hcount : (r.body.getD 2 0).toNat = n := by rw [hb]; exact byte1_reads hn
    rw [argumentBytes, hcount, byte1, List.length_append, hlength, List.length_singleton]
  | bindOutput | bindTrigger | unbind => obtain ⟨_, _, _, rfl, _⟩ := hout; rfl
  | collect | setMask | setReleasePolicy | grantControl | purgeClient | revokeControl =>
    obtain ⟨_, _, rfl, _⟩ := hout; rfl
  | offer => obtain ⟨_, _, _, _, _, rfl, _⟩ := hout; rfl
  | startTime => obtain ⟨_, _, _, rfl, _⟩ := hout; rfl
  | configureTrigger | configureOutput | setQuota => obtain ⟨_, _, _, _, rfl, _⟩ := hout; rfl
  | _ => exact hout.elim

theorem ruleOf_of_outOfRange (hb : r.body = k.code :: seq :: args) (hout : OutOfRange s r.port k args) :
    ruleOf k s r = .refuse .badField := by
  cases k with
  | create => exact createAnswer_of_outOfRange hb hout
  | revise => exact reviseAnswer_of_outOfRange hb hout
  | relabel => exact relabelAnswer_of_outOfRange hb hout
  | querySet => exact querySetAnswer_of_outOfRange hb hout
  | bindOutput => exact bindOutputAnswer_of_outOfRange hb hout
  | bindTrigger => exact bindTriggerAnswer_of_outOfRange hb hout
  | unbind => exact unbindAnswer_of_outOfRange hb hout
  | collect => exact collectAnswer_of_outOfRange hb hout
  | setMask => exact setMaskAnswer_of_outOfRange hb hout
  | offer => exact offerAnswer_of_outOfRange hb hout
  | startTime => exact startTimeAnswer_of_outOfRange hb hout
  | setReleasePolicy => exact setReleasePolicyAnswer_of_outOfRange hb hout
  | configureTrigger => exact configureTriggerAnswer_of_outOfRange hb hout
  | configureOutput => exact configureOutputAnswer_of_outOfRange hb hout
  | setQuota => exact setQuotaAnswer_of_outOfRange hb hout
  | grantControl => exact grantControlAnswer_of_outOfRange hb hout
  | purgeClient => exact purgeClientAnswer_of_outOfRange hb hout
  | revokeControl => exact revokeControlAnswer_of_outOfRange hb hout
  | _ => exact hout.elim

end

end Sys2Proof.Machine
end

section
/-! CERTIFICATE. The check order (10_request_reference.md, section 10.2). -/

namespace Sys2Proof.Claims

open Sys2Proof.Machine Sys2Proof.Safety

/-- Settles O19: the general checks are made in the order of the clauses, and what passes them is judged by the rule of its kind,
which answers with none of their codes but PURGING. -/
theorem generalChecksInOrder : Obligations.GeneralChecksInOrder := by
  intro s r hr ⟨hlength, _⟩
  refine ⟨fun hunknown => ?_, fun k hk => ⟨fun hbad => ?_, fun hok hcontrol hport => ?_, fun hok hcontrol hread hstatus hpurging => ?_,
    fun hok hpasses => ?_⟩⟩
  · have hkind : kindOf (bodyByte r.body 0) = none := by
      refine Option.eq_none_iff_forall_ne_some.2 fun k hk => hunknown k ?_
      rw [head?_eq_bodyByte (List.ne_nil_of_length_pos (by omega)), eq_code_of_kindOf hk]
    show execUnknownRequest s = _
    rw [execUnknownRequest, hr]
    exact (if_pos hkind).trans (congrArg _ (post_eq_served (by omega)))
  · rw [Refuses, Answers, exec_instrOf_in_service hr hk, judge_of_code (generalCheck_of_length hbad), respond,
      post_eq_served (by omega)]
  · rw [Refuses, Answers, exec_instrOf_in_service hr hk, judge_of_code (generalCheck_of_denied hok hcontrol hport), respond,
      post_eq_served (by omega)]
  · rw [Refuses, Answers, exec_instrOf_in_service hr hk,
      judge_of_code (generalCheck_of_purging hok hcontrol (purgeExempt_eq_false hread hstatus) hpurging), respond,
      post_eq_served (by omega)]
  · have hexec := exec_instrOf_in_service hr hk
    rw [judge_of_passes (generalCheck_of_passes hok hpasses)] at hexec
    have hproper := ruleOf_proper k s r
    cases hanswer : ruleOf k s r with
    | refuse code =>
      rw [hanswer] at hexec hproper
      obtain ⟨hbadLength, hdenied⟩ := hproper
      rw [respond, post_eq_served (by omega)] at hexec
      refine ⟨s, code, [0], hexec, hbadLength, hdenied, fun hk => ?_⟩
      obtain rfl | rfl := hk <;> cases hanswer
    | accept code payload t =>
      rw [hanswer, respond, post_eq_served (by omega)] at hexec
      obtain ⟨hbadLength, hdenied⟩ := ruleOf_code hanswer
      refine ⟨t, code, payload, hexec, hbadLength, hdenied, fun hk => ?_⟩
      obtain rfl | rfl := hk <;> cases hanswer <;> rfl

/-- Settles O20: the arguments read back as they were sent, and the rule of each kind tests their ranges first. -/
theorem outOfRangeArgumentsAnswerBadField : Obligations.OutOfRangeArgumentsAnswerBadField := by
  intro s r k args hs hout
  have ⟨_, ⟨seq, hb⟩, _⟩ := hs
  exact refuses_of_refuse hs (length_of_outOfRange hb hout) (exec_instrOf k s) (ruleOf_of_outOfRange hb hout)

end Sys2Proof.Claims
end

section
/-! SUPPORT. Frames, CRCs and handles read back (R5, R155, R180, R184). -/

namespace Sys2Proof.Machine

open Sys2Proof.Safety Sys2Proof.Claims

/-! ### The CRC (R184) -/

/-- A bit equal to the register's top bit shifts the register and nothing else. -/
theorem crcBit_msb {reg : Byte} {b : Bool} (h : b = reg.msb) : crcBit reg b = reg <<< 1 := by
  rw [crcBit, h, bne_self_eq_false]
  rfl

/-- The top bit of a shifted register is the next bit of the register. -/
theorem msb_shiftLeft_byte (x : Byte) {k : Nat} (hk : k < 8) : (x <<< k).msb = x.getLsbD (7 - k) := by
  rw [BitVec.msb_shiftLeft, BitVec.getMsbD_eq_getLsbD, decide_eq_true hk, Bool.true_and]

/-- A register run on over its own byte is shifted out. -/
theorem crcByte_self (x : Byte) : crcByte x x = 0 := by
  have hstep : ∀ k, k < 8 → crcBit (x <<< k) (x.getLsbD (7 - k)) = x <<< (k + 1) := fun k hk => by
    rw [crcBit_msb (msb_shiftLeft_byte x hk).symm, ← BitVec.shiftLeft_add]
  have hstart : x <<< 0 = x := BitVec.shiftLeft_zero x
  have hfirst := hstep 0 (by decide)
  rw [hstart] at hfirst
  simp only [crcByte, List.foldl_cons, List.foldl_nil]
  rw [hfirst, hstep 1 (by decide), hstep 2 (by decide), hstep 3 (by decide), hstep 4 (by decide), hstep 5 (by decide),
    hstep 6 (by decide), hstep 7 (by decide)]
  exact BitVec.shiftLeft_eq_zero (Nat.le_refl 8)

/-- A CRC run on over its own byte leaves 0. -/
theorem crc_append_self (bytes : List Byte) : crc (bytes ++ [crc bytes]) = 0 := by
  rw [crc, List.foldl_append]
  exact crcByte_self (crc bytes)

/-! ### Frames (R154, R155) -/

theorem submittedBody_frame {body : List Byte} (h : RequestBody body) (rest : List Byte) :
    submittedBody (frame body ++ rest) = some body := by
  obtain ⟨hmin, hmax⟩ := h
  have hlength : (BitVec.ofNat 8 body.length).toNat = body.length := byte1_reads (by omega)
  have hframe : frame body ++ rest =
      BitVec.ofNat 8 body.length :: (body ++ (crc (lengthAndBody body) :: rest)) := by
    simp [frame, lengthAndBody]
  have hcrc : (body ++ (crc (lengthAndBody body) :: rest)).getD body.length 0 = crc (lengthAndBody body) := by
    rw [List.getD_append_right _ _ _ _ (Nat.le_refl _), Nat.sub_self]
    rfl
  rw [hframe, submittedBody, hlength, if_neg (by omega), if_neg (by simp only [List.length_append, List.length_cons]; omega),
    List.take_left, hcrc]
  exact if_neg (not_not.2 rfl)

/-! ### Handles (R5, R180) -/

theorem value_handleOf {n : Nat} (h : n < 65536) : (handleOf n).value = n := by
  have hgeneration : n / 2048 < 2 ^ 5 := by omega
  rw [Handle.value, handleOf, BitVec.toNat_ofNat, Nat.mod_eq_of_lt hgeneration]
  exact Nat.div_add_mod' n 2048

end Sys2Proof.Machine
end

section
/-! CERTIFICATE. The encodings (section 10.4 of 10_request_reference.md). -/

namespace Sys2Proof.Claims

open Sys2Proof.Machine Sys2Proof.Safety

/-- Settles O60: the length byte says where the body ends; the register meets its own bits when the CRC runs on over its byte; and
slot and generation are the remainder and the quotient by 2048. -/
theorem framesAndHandlesReadBack : Obligations.FramesAndHandlesReadBack :=
  ⟨fun _ rest h => submittedBody_frame h rest, fun body => crc_append_self (lengthAndBody body),
    fun h => ⟨handle_value_lt h, handleOf_value h⟩, fun _ h => value_handleOf h⟩

end Sys2Proof.Claims
end

section
/-! SUPPORT. The entries of a QUERY-SET: which handles its arguments name, how each is judged, and which entries are laid. -/

namespace Sys2Proof.Machine

open Sys2Proof.Safety Sys2Proof.Claims

/-! ### The handles of the arguments (R180) -/

theorem bodyByte_of_drop {body rest : List Byte} {i : Nat} {b : Byte} (h : body.drop i = b :: rest) :
    bodyByte body i = b := by
  rw [bodyByte, ← Nat.add_zero i, List.getD_eq_getElem?_getD, ← List.getElem?_drop, h]
  rfl

theorem drop_succ_of_drop {body rest : List Byte} {i : Nat} {b : Byte} (h : body.drop i = b :: rest) :
    body.drop (i + 1) = rest := by
  rw [← List.drop_drop, h]
  rfl

theorem length_flatMap_handleBytes (handles : List Handle) :
    (handles.flatMap handleBytes).length = 2 * handles.length := by
  induction handles with
  | nil => rfl
  | cons handle rest ih =>
    have hbytes : (handleBytes handle).length = 2 := rfl
    rw [List.flatMap_cons, List.length_append, ih, hbytes, List.length_cons]
    omega

theorem handlesFrom_of_drop {body : List Byte} {i : Nat} (handles : List Handle)
    (h : body.drop i = handles.flatMap handleBytes) : handlesFrom body i handles.length = handles := by
  induction handles generalizing i with
  | nil => rfl
  | cons handle rest ih =>
    have hfirst : body.drop i = BitVec.ofNat 8 (handle.value / 256) :: BitVec.ofNat 8 handle.value ::
        rest.flatMap handleBytes := h
    have hsecond := drop_succ_of_drop hfirst
    have hread : argHandle body i = handle := by
      rw [argHandle, arg2, arg1, arg1, bodyByte_of_drop hfirst, bodyByte_of_drop hsecond,
        byte2_reads (handle_value_lt handle), handleOf_value]
    rw [List.length_cons, handlesFrom, hread, ih (drop_succ_of_drop hsecond)]

/-! ### One entry (R177) -/

section

variable {s : State} {c : Client} {h : Handle} {x : Rec}

theorem readRecord_of_stale (hx : ∀ x, ¬ Names s h x) : readRecord s c h = (.stale, []) := by
  rw [readRecord, not_live_of_not_names hx]

theorem readRecord_of_not_shared (hx : Names s h x) (howner : x.owner ≠ c) (hshare : x.share = false) :
    readRecord s c h = (.notShared, []) := by
  have hhidden : ¬ (x.owner = c ∨ x.share = true) := by simp [howner, hshare]
  rw [readRecord, names_iff_live.1 hx]
  exact if_neg hhidden

theorem readRecord_of_readable (hx : Names s h x) (hread : x.owner = c ∨ x.share = true) :
    readRecord s c h = (.ok, recordReport s.tableTime h x (offerField s h.slot x)) := by
  rw [readRecord, names_iff_live.1 hx]
  exact if_pos hread

theorem setEntry_of_stale (hx : ∀ x, ¬ Names s h x) : setEntry s c h = 0x45 :: handleBytes h := by
  rw [setEntry, readRecord_of_stale hx]
  rfl

theorem setEntry_of_not_shared (hx : Names s h x) (howner : x.owner ≠ c) (hshare : x.share = false) :
    setEntry s c h = 0x47 :: handleBytes h := by
  rw [setEntry, readRecord_of_not_shared hx howner hshare]
  rfl

theorem setEntry_of_readable (hx : Names s h x) (hread : x.owner = c ∨ x.share = true) :
    setEntry s c h = 0x00 :: recordReport s.tableTime h x (offerField s h.slot x) := by
  rw [setEntry, readRecord_of_readable hx hread]
  rfl

theorem offerField_of_unoffered (i : SlotId) (hx : x.offered = false) : offerField s i x = none := by
  rw [offerField, hx]
  rfl

/-- The offer field of a record with an open offer refers to that offer (R4, R136). -/
theorem offerField_of_offer (hlaw : OfferTableLaw s) {i : SlotId} (hx : recordAt s i = some x) {o : Offer}
    (ho : o ∈ s.offers) (hrecord : o.record = i) : offerField s i x = some o := by
  have ⟨_, hoffered⟩ := hlaw
  have htrue := (hoffered i).2 (hrecord ▸ List.mem_map_of_mem ho)
  rw [hx] at htrue
  rw [offerField, if_pos (Option.some.inj htrue), (offerOf_eq_some_iff hlaw).2 ⟨ho, hrecord⟩]

end

/-! ### The entries laid (R177) -/

theorem layEntries_prefix (room : Nat) (l : List (List Byte)) : layEntries room l <+: l := by
  induction l generalizing room with
  | nil => exact List.prefix_rfl
  | cons e rest ih =>
    rw [layEntries]
    split
    · exact List.cons_prefix_cons.2 ⟨rfl, ih _⟩
    · exact List.nil_prefix

/-- What is laid ends where the next whole entry does not fit. -/
theorem room_lt_of_layEntries {room : Nat} {l : List (List Byte)} (h : (layEntries room l).length < l.length) :
    room < (l.take ((layEntries room l).length + 1)).flatten.length := by
  induction l generalizing room with
  | nil => exact absurd h (Nat.not_lt_zero _)
  | cons e rest ih =>
    rw [layEntries] at h ⊢
    split
    · next hfits =>
      rw [if_pos hfits, List.length_cons, List.length_cons] at h
      have hrest := ih (Nat.lt_of_succ_lt_succ h)
      rw [List.length_cons, List.take_succ_cons, List.flatten_cons, List.length_append]
      omega
    · next hlong =>
      rw [List.length_nil, List.take_succ_cons, List.take_zero, List.flatten_cons, List.flatten_nil, List.append_nil]
      exact Nat.not_le.1 hlong

end Sys2Proof.Machine
end

section
/-! CERTIFICATE. QUERY-SET (01_records_and_handles.md). -/

namespace Sys2Proof.Claims

open Sys2Proof.Machine Sys2Proof.Safety

/-- Settles O27: the handles read back from the body, what is laid is the longest part of their entries that fits, and each entry is
judged as `readRecord` judges a QUERY. -/
theorem querySetLaysTheEntriesThatFit : Obligations.QuerySetLaysTheEntriesThatFit := by
  refine ⟨fun s r handles hs hmin hmax => ?_, fun s c h => ⟨setEntry_of_stale, fun x hx => ⟨setEntry_of_not_shared hx,
    fun hread hx' => ?_, fun hread o ho hrecord hlaw => ?_⟩⟩⟩
  · have ⟨_, ⟨seq, hb⟩, _⟩ := hs
    have hcount : arg1 r.body 2 = handles.length := by rw [hb]; exact byte1_reads (by omega)
    have hhandles : handlesFrom r.body 3 handles.length = handles := handlesFrom_of_drop handles (by rw [hb]; rfl)
    have hentries : setEntries s r = layEntries 120 (handles.map (setEntry s r.port)) := by
      rw [setEntries, hcount, hhandles]
      rfl
    have hprefix := layEntries_prefix 120 (handles.map (setEntry s r.port))
    have hlaid := List.prefix_iff_eq_take.1 hprefix
    have hroom := length_layEntries_le 120 (handles.map (setEntry s r.port))
    have hcountLaid := hprefix.length_le
    rw [List.length_map] at hcountLaid
    refine ⟨(layEntries 120 (handles.map (setEntry s r.port))).length, hcountLaid, ?_, fun hmore => ?_, ?_⟩
    · rw [← hlaid]
      omega
    · have hnext := room_lt_of_layEntries (room := 120) (l := handles.map (setEntry s r.port)) (by rwa [List.length_map])
      omega
    · rw [← hlaid]
      have hlength : (byte1 handles.length ++ handles.flatMap handleBytes).length = argumentBytes r.body .querySet := by
        have hsent : (r.body.getD 2 0).toNat = handles.length := hcount
        rw [argumentBytes, hsent, List.length_append, length_flatMap_handleBytes]
        rfl
      refine answers_of_accept (act := querySetAnswer) hs hlength rfl ?_
      have hrange : ¬ (handles.length = 0 ∨ Config.listLimit < handles.length) := not_or.2 ⟨by omega, Nat.not_lt.2 hmax⟩
      rw [querySetAnswer, hcount, if_neg hrange, hentries]
  · rw [setEntry_of_readable hx hread, offerField_of_unoffered _ hx']
  · rw [setEntry_of_readable hx hread, offerField_of_offer hlaw (recordAt_of_names hx) ho hrecord]

end Sys2Proof.Claims
end

section
/-! SUPPORT. What COLLECT and ACKNOWLEDGE take from an attention set (R123, R127). -/

namespace Sys2Proof.Machine

open Sys2Proof.Safety Sys2Proof.Claims

section

variable {s : State} {c : Client} {i : SlotId} {x : Rec}

/-- An entry taken: the record acknowledged and the set without it. -/
theorem takeEntry_eq (hx : recordAt s i = some x) :
    takeEntry s c i =
      { s with
        slots := slotsWith s i (acknowledged x)
        attn := withSet s c (dropSlot i (s.attn.get c).set) } := by
  have hx' : recordAt (leaveSet s c i) i = some x := (recordAt_eq_of_slots (leaveSet_slots s c i) i).trans hx
  rw [takeEntry, mapRecord, hx']
  rfl

/-- What a set's first entries, once taken, leave: the records, and the rest of the set. -/
theorem takeEntries_eq {l rest : List SlotId} (hset : (s.attn.get c).set = l ++ rest) (hnodup : (l ++ rest).Nodup) :
    takeEntries s c l = { s with slots := (takeEntries s c l).slots, attn := withSet s c rest } := by
  induction l generalizing s with
  | nil =>
    rw [List.nil_append] at hset
    rw [← hset, withSet_self]
    rfl
  | cons i l ih =>
    obtain ⟨hnew, hnodup'⟩ := List.nodup_cons.1 hnodup
    have hattn : (takeEntry s c i).attn = withSet s c (l ++ rest) := by
      rw [takeEntry, mapRecord_attn, leaveSet_attn, hset]
      have hdropped : dropSlot i (i :: (l ++ rest)) = l ++ rest :=
        (List.filter_cons_of_neg (by simp)).trans (dropSlot_of_not_mem hnew)
      rw [List.cons_append, hdropped]
      rfl
    have hrest := ih (s := takeEntry s c i) (by rw [hattn, withSet, Table.get_set_self]) hnodup'
    have hwith : withSet (takeEntry s c i) c rest = withSet s c rest := by
      rw [withSet, hattn, withSet, Table.get_set_self, Table.set_set]
      rfl
    rw [hwith] at hrest
    rw [takeEntries, hrest]
    congr 1 <;> simp

theorem takeEntries_get_slots (s : State) (c : Client) (l : List SlotId) (j : SlotId) :
    (takeEntries s c l).slots.get j =
      if j ∈ l then { s.slots.get j with record := (s.slots.get j).record.map acknowledged } else s.slots.get j := by
  have hrecord : ((takeEntries s c l).slots.get j).record =
      if j ∈ l then (s.slots.get j).record.map acknowledged else (s.slots.get j).record := recordAt_takeEntries s c l j
  have hkept : Kept (fun _ => ()) s (takeEntries s c l) := .takeEntries (fun _ => rfl) c l
  have hgeneration := hkept.generation j
  cases hslot : (takeEntries s c l).slots.get j with
  | mk g y =>
    rw [hslot] at hrecord hgeneration
    subst hrecord hgeneration
    split <;> rfl

/-- The payload of an ACKNOWLEDGE that reports both fire times (R176). -/
theorem acknowledgePayload_of_fired {first last : Option Time} {a b : Time} (hfirst : first = some a)
    (hlast : last = some b) (t : State) (c : Client) (n : Nat) :
    acknowledgePayload t c first last n =
      [3] ++ byte1 n ++ byte2 (t.attn.get c).set.length ++ yesNo (t.attn.get c).line ++ timeBytes a ++ timeBytes b := by
  subst hfirst hlast
  rfl

theorem collectReport_eq (hx : recordAt s i = some x) :
    collectReport s i =
      handleBytes { slot := i, generation := (s.slots.get i).generation } ++ byte2 x.tag.toNat ++ byte1 x.priority.val
        ++ timeBytes (x.firstFire.getD 0) ++ timeBytes (x.lastFire.getD 0) ++ byte1 x.overrun := by
  rw [collectReport, hx]
  rfl

end

end Sys2Proof.Machine
end

section
/-! CERTIFICATE. COLLECT, ACKNOWLEDGE and SET-MASK (section 7.3 of 07_attention.md). -/

namespace Sys2Proof.Claims

open Sys2Proof.Machine Sys2Proof.Safety

/-- Settles O37: the set is without repetition, so what is taken from its head leaves the rest in order; the records taken are
acknowledged one after another. -/
theorem collectRemovesTheFirstEntries : Obligations.CollectRemovesTheFirstEntries := by
  intro s r n hpos hmax hs hlaw
  have ⟨_, ⟨seq, hb⟩, _⟩ := hs
  have ⟨_, _, hnodup, _⟩ := hlaw
  have hcount : arg1 r.body 2 = n := by rw [hb]; exact byte1_reads (by omega)
  have hsplit : (s.attn.get r.port).set = (s.attn.get r.port).set.take n ++ (s.attn.get r.port).set.drop n :=
    (List.take_append_drop n _).symm
  have htaken := takeEntries_eq hsplit (hsplit ▸ hnodup r.port)
  refine ⟨fun i _ x hx => collectReport_eq hx, (takeEntries s r.port ((s.attn.get r.port).set.take n)).slots,
    takeEntries_get_slots s r.port _, ?_⟩
  refine answers_of_accept (act := collectAnswer) hs rfl rfl ?_
  have hrange : ¬ (n = 0 ∨ Config.listLimit < n) := not_or.2 ⟨by omega, Nat.not_lt.2 hmax⟩
  rw [collectAnswer, hcount, if_neg hrange]
  dsimp only
  rw [htaken, refreshAttn_eq_relined, remainingAndLine, ← List.append_assoc]
  simp [relined, withSet]

/-- Settles O38: the record named is the requester's, and its entry is taken if it stands in the requester's set. -/
theorem acknowledgeRemovesOneEntry : Obligations.AcknowledgeRemovesOneEntry := by
  intro s r h hs
  have ⟨_, ⟨seq, hb⟩, _⟩ := hs
  have hhandle : argHandle r.body 2 = h := by rw [hb]; exact argHandle_only h
  obtain ⟨howner, hexec⟩ := ownerOnly_of_withOwned (c := .acknowledge) (act := acknowledgeAnswer) hs rfl rfl
    (by rw [acknowledgeAnswer, hhandle])
  refine ⟨howner, fun x hx hport => ⟨fun hin first last hfirst hlast => ?_, fun hout hlast => ?_, fun hout last hlast => ?_⟩⟩
  · refine (hexec x hx hport).trans ?_
    rw [if_pos hin, takeEntry_eq (recordAt_of_names hx), refreshAttn_eq_relined, answered,
      acknowledgePayload_of_fired hfirst hlast]
    simp only [relined, withSet, Table.get_set_self]
    rfl
  · refine (hexec x hx hport).trans ?_
    rw [if_neg hout, answered, acknowledgePayload, hlast]
    simp [remainingAndLine, presence, bitsValue, byte1, optBytes]
  · refine (hexec x hx hport).trans ?_
    rw [if_neg hout, answered, acknowledgePayload, hlast]
    simp [remainingAndLine, presence, bitsValue, byte1, optBytes]

/-- Settles O39: the mask is written before the line is recomputed, and the set is not touched. -/
theorem setMaskWritesTheLevel : Obligations.SetMaskWritesTheLevel := by
  intro s r n hn hs
  have ⟨_, ⟨seq, hb⟩, _⟩ := hs
  have hmask : arg1 r.body 2 = n := by rw [hb]; exact byte1_reads (by omega)
  refine answers_of_accept (act := setMaskAnswer) hs rfl rfl ?_
  rw [setMaskAnswer, hmask, if_neg (Nat.not_lt.2 hn)]
  dsimp only
  rw [refreshAttn_eq_relined, remainingAndLine, ← List.append_assoc]
  simp [relined, putAttn]

end Sys2Proof.Claims
end

section
/-! CERTIFICATE. RETIRE and QUERY (01_records_and_handles.md). -/

namespace Sys2Proof.Claims

open Sys2Proof.Machine Sys2Proof.Safety

/-- Settles O22: the handle reads back, and the record named is retired by its owner alone. -/
theorem retireRetiresAndReports : Obligations.RetireRetiresAndReports := by
  intro s r h hs
  have ⟨_, ⟨seq, hb⟩, _⟩ := hs
  have hhandle : argHandle r.body 2 = h := by rw [hb]; exact argHandle_only h
  exact ownerOnly_of_withOwned (c := .retire) (act := retireAnswer) hs rfl rfl (by rw [retireAnswer, hhandle])

/-- Settles O25: a QUERY answers what `readRecord` makes of its handle. -/
theorem queryReportsTheRecord : Obligations.QueryReportsTheRecord := by
  intro s r h hs
  have ⟨_, ⟨seq, hb⟩, _⟩ := hs
  have hhandle : argHandle r.body 2 = h := by rw [hb]; exact argHandle_only h
  have hread {x : Rec} (hx : Names s h x) (hreadable : x.owner = r.port ∨ x.share = true) :
      Answers .query s r .ok (recordReport s.tableTime h x (offerField s h.slot x)) s :=
    answers_of_accept (act := queryAnswer) hs rfl rfl (by rw [queryAnswer, hhandle, readRecord_of_readable hx hreadable])
  refine ⟨fun hx => ?_, fun x hx => ⟨fun howner hshare => ?_, fun hreadable =>
    ⟨fun hoffered => ?_, fun o ho hrecord hlaw => ?_⟩⟩⟩
  · exact refuses_of_refuse (act := queryAnswer) hs rfl rfl (by rw [queryAnswer, hhandle, readRecord_of_stale hx])
  · exact refuses_of_refuse (act := queryAnswer) hs rfl rfl
      (by rw [queryAnswer, hhandle, readRecord_of_not_shared hx howner hshare])
  · rw [← offerField_of_unoffered h.slot hoffered (s := s)]
    exact hread hx hreadable
  · rw [← offerField_of_offer hlaw (recordAt_of_names hx) ho hrecord]
    exact hread hx hreadable

end Sys2Proof.Claims
end

section
/-! SUPPORT. The line requests in the vocabulary of the statements: what a binding, a release and a change of polarity leave. -/

namespace Sys2Proof.Machine

open Sys2Proof.Safety Sys2Proof.Claims

section

variable {s : State} {i : SlotId} {x : Rec} {k : Line}

/-! ### Event output lines (R111, R112) -/

theorem releaseBinding_eq (s : State) (b : Option Line) : releaseBinding s b = { s with evt := evtReleased s b } := by
  cases b <;> rfl

/-- The release of another line leaves line `k`. -/
theorem evtReleased_get {b : Option Line} (h : b ≠ some k) : (evtReleased s b).get k = s.evt.get k := by
  cases b with
  | none => rfl
  | some j => exact Table.get_set_of_ne _ _ fun hkj => h (congrArg some hkj.symm)

/-- The state in which line `k` is bound to the record in slot `i` and drives its idle polarity (R111). -/
def outputBound (s : State) (i : SlotId) (x : Rec) (k : Line) : State :=
  { s with
    slots := slotsWith s i { x with outputBinding := some k, outputLevel := some .inactive }
    evt := (evtReleased s x.outputBinding).set k
      { idle := (s.evt.get k).idle, bound := some i, driven := (s.evt.get k).idle } }

theorem bindOutputRecord_of_bound (h : x.outputBinding = some k) : bindOutputRecord s i x k = s := if_pos h

theorem bindOutputRecord_of_unbound (h : x.outputBinding ≠ some k) :
    bindOutputRecord s i x k = outputBound s i x k := by
  have hline := evtReleased_get (s := s) h
  rw [bindOutputRecord, if_neg h, releaseBinding_eq]
  simp only [putRecord, putEvt, drive, boundLevel, recordAt, Table.get_set_self, Table.set_set, hline, Option.bind_some,
    drivenLevel]
  rfl

theorem boundElsewhere_of_other {j : SlotId} (hbound : (s.evt.get k).bound = some j) (hj : j ≠ i) :
    boundElsewhere s k i = true := by
  rw [boundElsewhere, hbound]
  exact decide_eq_true hj

theorem boundElsewhere_of_only (h : ∀ j, (s.evt.get k).bound = some j → j = i) : boundElsewhere s k i = false := by
  unfold boundElsewhere
  split
  · rfl
  · next j hj => exact decide_eq_false (not_not.2 (h j hj))

/-! ### Trigger lines (R107, R112) -/

theorem unlistenBinding_eq (s : State) (i : SlotId) (b : Option Line) :
    unlistenBinding s i b = { s with trg := trgLeft s i b } := by
  cases b <;> rfl

theorem trgLeft_get {b : Option Line} (h : b ≠ some k) : (trgLeft s i b).get k = s.trg.get k := by
  cases b with
  | none => rfl
  | some j => exact Table.get_set_of_ne _ _ fun hkj => h (congrArg some hkj.symm)

/-- The state in which the record in slot `i` stands at the tail of line `k`'s list (R107). -/
def triggerBound (s : State) (i : SlotId) (x : Rec) (k : Line) : State :=
  { s with
    slots := slotsWith s i { x with triggerBinding := some k }
    trg := (trgLeft s i x.triggerBinding).set k
      { s.trg.get k with listeners := (s.trg.get k).listeners ++ [i] } }

theorem bindTriggerRecord_of_bound (h : x.triggerBinding = some k) : bindTriggerRecord s i x k = s := if_pos h

theorem bindTriggerRecord_of_unbound (h : x.triggerBinding ≠ some k) :
    bindTriggerRecord s i x k = triggerBound s i x k := by
  have hline := trgLeft_get (s := s) (i := i) h
  rw [bindTriggerRecord, if_neg h, unlistenBinding_eq]
  simp only [putRecord, putTrg, hline]
  rfl

/-- Positions are counted from 1 at the head (R107). -/
theorem positionIn_append {ahead : List SlotId} (h : i ∉ ahead) (behind : List SlotId) :
    positionIn i (ahead ++ i :: behind) = ahead.length + 1 := by
  induction ahead with
  | nil => simp [positionIn]
  | cons j rest ih =>
    rw [List.mem_cons, not_or] at h
    obtain ⟨hij, hrest⟩ := h
    rw [List.cons_append, positionIn, if_neg (Ne.symm hij), ih hrest, if_neg (Nat.succ_ne_zero _), List.length_cons]

/-! ### What an IDLE record's owner is answered (R107, R111, R112) -/

variable {r : Serving} {h : Handle} {c : Instr} {kind : Kind} {args : List Byte} {act : State → Serving → Answer}
  {f : Rec → Answer}

/-- A request that needs an IDLE record of the requester: STALE, NOT_OWNER, WRONG_STATE, or what its rule makes of the record. -/
theorem ownerOnly_of_withIdle (hs : InService s r kind args) (hl : args.length = argumentBytes r.body kind)
    (hc : exec c s = .next (takeRequest s kind act)) (ha : act s r = withIdle s r.port h f) :
    OwnerOnly c s r h ∧ ∀ x, Names s h x → x.owner = r.port →
      (x.state ≠ .idle → Refuses c s r .wrongState) ∧
        (x.state = .idle → exec c s = .next (answered s r (f x))) := by
  obtain ⟨howner, hexec⟩ := ownerOnly_of_withOwned hs hl hc ha
  refine ⟨howner, fun x hx hport => ⟨fun hstate => ?_, fun hstate => ?_⟩⟩
  · refine (hexec x hx hport).trans ?_
    rw [if_neg hstate]
    rfl
  · refine (hexec x hx hport).trans ?_
    rw [if_pos hstate]

theorem levelOf_byte (l : Level) : levelOf (BitVec.ofNat 8 (levelCode l)).toNat = some l := by cases l <;> rfl

theorem bindingKindOf_byte (kind : BindingKind) : bindingKindOf (BitVec.ofNat 8 kind.code).toNat = some kind := by
  cases kind <;> rfl

end

end Sys2Proof.Machine
end

section
/-! CERTIFICATE. The requests on the lines (06_trigger_lines_and_event_outputs.md). -/

namespace Sys2Proof.Claims

open Sys2Proof.Machine Sys2Proof.Safety

/-- The line that follows a handle reads back (R180). -/
theorem line_after_handle {kind seq : Byte} (h : Handle) (k : Line) (rest : List Byte) :
    below 16 (arg1 (kind :: seq :: (handleBytes h ++ (byte1 k.val ++ rest))) 4) = some k := below_byte (by decide) k

/-- Settles O31: a line bound to another record is refused, a binding that is there already changes nothing, and else any other line
is released before line `k` is bound and drives its idle polarity. -/
theorem bindOutputBindsAnIdleRecord : Obligations.BindOutputBindsAnIdleRecord := by
  intro s r h k hs
  have ⟨_, ⟨seq, hb⟩, _⟩ := hs
  have hhandle : argHandle r.body 2 = h := by rw [hb]; exact argHandle_first h _
  have hline : below 16 (arg1 r.body 4) = some k := by rw [hb]; exact line_after_handle h k []
  obtain ⟨howner, hexec⟩ := ownerOnly_of_withIdle (c := .bindOutput) (act := bindOutputAnswer) hs rfl rfl
    (by rw [bindOutputAnswer, hline, hhandle])
  refine ⟨howner, fun x hx hport => ?_⟩
  obtain ⟨hrefused, hjudged⟩ := hexec x hx hport
  refine ⟨hrefused, fun hidle j hbound hj => ?_, fun hidle honly => ⟨fun hthere => ?_, fun hnew => ?_⟩⟩
  · refine (hjudged hidle).trans ?_
    rw [if_pos (boundElsewhere_of_other hbound hj)]
    rfl
  · refine (hjudged hidle).trans ?_
    rw [boundElsewhere_of_only honly, bindOutputRecord_of_bound hthere]
    rfl
  · refine (hjudged hidle).trans ?_
    rw [boundElsewhere_of_only honly, bindOutputRecord_of_unbound hnew]
    simp only [Bool.false_eq_true, if_false, answered, outputPayload, outputBound, Table.get_set_self]

/-- Settles O32: a binding that is there already is reported with its position, and else the record leaves any other list before it
joins the tail of the line's. -/
theorem bindTriggerJoinsTheTail : Obligations.BindTriggerJoinsTheTail := by
  intro s r h k hs
  have ⟨_, ⟨seq, hb⟩, _⟩ := hs
  have hhandle : argHandle r.body 2 = h := by rw [hb]; exact argHandle_first h _
  have hline : below 16 (arg1 r.body 4) = some k := by rw [hb]; exact line_after_handle h k []
  obtain ⟨howner, hexec⟩ := ownerOnly_of_withIdle (c := .bindTrigger) (act := bindTriggerAnswer) hs rfl rfl
    (by rw [bindTriggerAnswer, hline, hhandle])
  refine ⟨howner, fun x hx hport => ?_⟩
  obtain ⟨hrefused, hjudged⟩ := hexec x hx hport
  refine ⟨hrefused, fun hidle hthere ahead behind hlist hnew => ?_, fun hidle hnew hout => ?_⟩
  · refine (hjudged hidle).trans ?_
    rw [bindTriggerRecord_of_bound hthere]
    simp only [answered, hlist, positionIn_append hnew behind]
    rfl
  · refine (hjudged hidle).trans ?_
    rw [bindTriggerRecord_of_unbound hnew]
    simp only [answered, triggerPayload, triggerBound, Table.get_set_self, positionIn_append hout []]
    rfl

/-- Settles O33: the binding named is taken off the record and off its line, if the record holds it. -/
theorem unbindRemovesABinding : Obligations.UnbindRemovesABinding := by
  intro s r h kind hs
  have ⟨_, ⟨seq, hb⟩, _⟩ := hs
  have hhandle : argHandle r.body 2 = h := by rw [hb]; exact argHandle_first h _
  have hkind : bindingKindOf (arg1 r.body 4) = some kind := by rw [hb]; exact bindingKindOf_byte kind
  obtain ⟨howner, hexec⟩ := ownerOnly_of_withIdle (c := .unbind) (act := unbindAnswer) hs (by cases kind <;> rfl) rfl
    (by rw [unbindAnswer, hkind, hhandle])
  refine ⟨howner, fun x hx hport => ?_⟩
  obtain ⟨hrefused, hjudged⟩ := hexec x hx hport
  refine ⟨hrefused, fun hidle hk k hbound => ?_, fun hidle hk hunbound => ?_, fun hidle hk k hbound => ?_,
    fun hidle hk hunbound => ?_⟩ <;> subst hk <;> refine (hjudged hidle).trans ?_
  · rw [answered, unbindPayload, bindingOf, hbound, unbindRecord, unbindOutput, hbound]
    rfl
  · rw [answered, unbindPayload, bindingOf, hunbound, unbindRecord, unbindOutput, hunbound]
    rfl
  · rw [answered, unbindPayload, bindingOf, hbound, unbindRecord, unbindTrigger, hbound]
    rfl
  · rw [answered, unbindPayload, bindingOf, hunbound, unbindRecord, unbindTrigger, hunbound]
    rfl

/-- Settles O34: the two arguments read back, a line in use is refused, and else its polarity is written. -/
theorem configureSetsThePolarity : Obligations.ConfigureSetsThePolarity := by
  intro s r k polarity
  refine ⟨fun hs => ?_, fun hs => ?_⟩
  · have ⟨_, ⟨seq, hb⟩, _⟩ := hs
    have hline : below 16 (arg1 r.body 2) = some k := by rw [hb]; exact below_byte (by decide) k
    have hpolarity : levelOf (arg1 r.body 3) = some polarity := by rw [hb]; exact levelOf_byte polarity
    refine ⟨fun hbusy => ?_, fun hfree => ?_⟩
    · refine refuses_of_refuse (act := configureTriggerAnswer) hs rfl rfl ?_
      rw [configureTriggerAnswer, hline, hpolarity]
      exact if_pos hbusy
    · refine answers_of_accept (act := configureTriggerAnswer) hs rfl rfl ?_
      rw [configureTriggerAnswer, hline, hpolarity]
      simp only [hfree, ne_eq, not_true_eq_false, if_false, triggerPayload, putTrg, Table.get_set_self]
      rfl
  · have ⟨_, ⟨seq, hb⟩, _⟩ := hs
    have hline : below 16 (arg1 r.body 2) = some k := by rw [hb]; exact below_byte (by decide) k
    have hpolarity : levelOf (arg1 r.body 3) = some polarity := by rw [hb]; exact levelOf_byte polarity
    refine ⟨fun hbusy => ?_, fun hfree => ?_⟩
    · refine refuses_of_refuse (act := configureOutputAnswer) hs rfl rfl ?_
      rw [configureOutputAnswer, hline, hpolarity]
      exact if_pos hbusy
    · refine answers_of_accept (act := configureOutputAnswer) hs rfl rfl ?_
      rw [configureOutputAnswer, hline, hpolarity]
      simp only [hfree, ne_eq, not_true_eq_false, if_false, outputPayload, putEvt, Table.get_set_self]

end Sys2Proof.Claims
end

section
/-! SUPPORT. One expiry in the vocabulary of the statements: what an event that fires leaves, and what the expiry rule of each mode
makes of a record that is due. -/

namespace Sys2Proof.Machine

open Sys2Proof.Safety Sys2Proof.Claims

/-! ### Events that fire (R62, R120) -/

/-- An event that fires is the event, and then the firing. -/
theorem applyEffect_fires (s : State) (i : SlotId) (y : Rec) (op : SchedOp) :
    applyEffect s i { record := y, schedule := op, fires := true } =
      fire (applyEffect s i { record := y, schedule := op, fires := false }) i := rfl

theorem recordAt_changed (s : State) (i j : SlotId) (y : Rec) (l : List Entry) :
    recordAt (changed s i y l) j = if j = i then some y else recordAt s j := recordAt_putRecord s i j y

/-- The reporting fields written into the record of a change. -/
theorem putRecord_changed (s : State) (i : SlotId) {y z : Rec} (l : List Entry)
    (hbinding : z.outputBinding = y.outputBinding) (hlevel : z.outputLevel = y.outputLevel) :
    putRecord (changed s i y l) i z = changed s i z l := by
  have hfollows : follows s z = follows s y := by rw [follows, follows, hbinding, hlevel]
  simp only [putRecord, changed, slotsWith, hfollows, Table.set_set, Table.get_set_self]

section

variable {s : State} {i : SlotId} {x y : Rec} {l : List Entry}

/-- The firing of a change enters its record in the owner's set, at the tail of its group, unless it is there already. -/
theorem fire_changed (hset : y.unacknowledged = false → i ∉ (s.attn.get y.owner).set) :
    fire (changed s i y l) i = firing s i y l := by
  have hself : recordAt (changed s i y l) i = some y := by rw [recordAt_changed, if_pos rfl]
  have htime : (changed s i y l).tableTime = s.tableTime := rfl
  unfold fire firing
  rw [hself]
  by_cases hu : y.unacknowledged = true
  · have hreported : reported s.tableTime y = furtherFiring s.tableTime y := if_pos hu
    simp only [if_pos hu, withSet_self, hreported]
    rw [htime, putRecord_changed s i (y := y) (z := furtherFiring s.tableTime y) l rfl rfl, refreshAttn_eq_relined]
    rfl
  · have hreported : reported s.tableTime y = firstFiring s.tableTime y := if_neg hu
    have hnew := hset (Bool.eq_false_iff.2 hu)
    have hgroup : joinGroup (priorityAt (changed s i (firstFiring s.tableTime y) l)) i (s.attn.get y.owner).set =
        grouped s y.priority.val i (s.attn.get y.owner).set :=
      joinGroup_grouped (y := firstFiring s.tableTime y) (by rw [recordAt_changed, if_pos rfl])
        (fun j hj => by rw [recordAt_changed, if_neg hj]) hnew
    simp only [if_neg hu, hreported]
    have hattn : (changed s i (firstFiring s.tableTime y) l).attn = s.attn := rfl
    rw [htime, putRecord_changed s i (y := y) (z := firstFiring s.tableTime y) l rfl rfl, refreshAttn_eq_relined, joinSet,
      hattn, hgroup]
    rfl

/-- An expiry that fires, by its effect. -/
theorem expireAt_of_firing (hx : recordAt s i = some x) (hline : OnItsLine s i x)
    (hset : x.unacknowledged = false → i ∉ (s.attn.get x.owner).set) {op : SchedOp}
    (hrule : expireRecord s.tableTime x = { record := y, schedule := op, fires := true })
    (hy : y.standing = x.standing) (hbinding : y.outputBinding = x.outputBinding) :
    expireAt s i = firing s i y (schedAfter s i op) := by
  have hu : y.unacknowledged = x.unacknowledged := congrArg Standing.unacknowledged hy
  have howner : y.owner = x.owner := congrArg Standing.owner hy
  rw [expireAt, hx]
  dsimp only
  rw [hrule, applyEffect_fires, applyEffect_changed hline y op hbinding]
  exact fire_changed fun hfresh => howner ▸ hset (hu ▸ hfresh)

theorem expireAt_of_silent (hx : recordAt s i = some x) (hline : OnItsLine s i x) {op : SchedOp}
    (hrule : expireRecord s.tableTime x = { record := y, schedule := op, fires := false })
    (hbinding : y.outputBinding = x.outputBinding) : expireAt s i = changed s i y (schedAfter s i op) := by
  rw [expireAt, hx]
  dsimp only
  rw [hrule, applyEffect_changed hline y op hbinding]

end

/-! ### The expiry rules (R70, R72, R76, R77, R82, R85) -/

section

variable {now : Time} {x : Rec}

theorem armed_of_due (h : RecordLaw x) {due : Time} (hdue : x.dueTime = some due) : x.state = .armed :=
  (dueTime_isSome_iff h).1 (by rw [hdue]; rfl)

/-- A record that is due counts down no remaining time, and only a SQUARE one has a phase. -/
theorem remaining_eq_none_of_due (h : RecordLaw x) {due : Time} (hdue : x.dueTime = some due) : x.remaining = none :=
  remaining_eq_none h (by simp [armed_of_due h hdue])

/-- The end of a count in a state without timing. -/
theorem setLevel_untimed (h : RecordLaw x) {due : Time} (hdue : x.dueTime = some due) (hmode : x.mode ≠ .square)
    (state : RecState) (level : OutLevel) :
    setLevel (untimed x state) level = { x with state := state, dueTime := none, outputLevel := heldLevel x level } := by
  rw [setLevel_of_recordLaw (y := untimed x state) h rfl rfl]
  have hremaining := remaining_eq_none_of_due h hdue
  have hphase : x.phase = none := phase_eq_none h (by simp [hmode])
  simp [untimed, hremaining, hphase]

theorem toggleLevel_eq (h : RecordLaw x) :
    toggleLevel x = { x with outputLevel := x.outputLevel.map fun l => if l = .active then .inactive else .active } := by
  have hsome := outputLevel_isSome h
  unfold toggleLevel
  cases hlevel : x.outputLevel with
  | none => cases x; simp_all
  | some l =>
    rw [hlevel] at hsome
    obtain ⟨k, hk⟩ := Option.isSome_iff_exists.1 hsome.symm
    cases l with
    | inactive => exact (setLevel_of_recordLaw (l := .active) h rfl rfl).trans (by rw [heldLevel, hk]; rfl)
    | active => exact (setLevel_of_recordLaw (l := .inactive) h rfl rfl).trans (by rw [heldLevel, hk]; rfl)

/-- The end of a CYCLIC period starts the next, from the point at which it ends (R72). -/
theorem expireRecord_cyclic (h : RecordLaw x) (hdue : x.dueTime = some now) (hmode : x.mode = .cyclic) :
    expireRecord now x =
      timed
        { applied x with
          dueTime := some (after now (periodOf x))
          outputLevel := x.outputLevel.map fun l => if l = .active then .inactive else .active } true := by
  have hstate := armed_of_due h hdue
  have hremaining := remaining_eq_none_of_due h hdue
  have hrule : expireRecord now x =
      timed (armedAt (takeStaged (toggleLevel x)) (after (x.dueTime.getD now) (takeStaged (toggleLevel x)).period)) true := by
    simp only [expireRecord, hmode]
  rw [hrule, toggleLevel_eq h, hdue, takeStaged_eq, armedAt, ← hremaining, ← hstate]
  rfl

/-- The end of a HIGH half starts the LOW half (R76). -/
theorem expireRecord_high (h : RecordLaw x) (hdue : x.dueTime = some now) (hmode : x.mode = .square)
    (hphase : x.phase = some .high) :
    expireRecord now x =
      timed
        { applied x with
          dueTime := some (after now (periodOf x / 2)), phase := some .low, outputLevel := heldLevel x .inactive } false := by
  have hstate := armed_of_due h hdue
  have hrule : expireRecord now x = timed (startLow (takeStaged x) (x.dueTime.getD now)) false := by
    simp only [expireRecord, hmode, hphase]
  rw [hrule, hdue, Option.getD_some, startLow, armedAt_takeStaged (remaining_eq_none_of_due h hdue), takeStaged_eq, ← hstate]
  exact congrArg (timed · false) (setLevel_of_recordLaw h rfl rfl)

/-- The end of a LOW half starts the next HIGH half (R77). -/
theorem expireRecord_low (h : RecordLaw x) (hdue : x.dueTime = some now) (hmode : x.mode = .square)
    (hphase : x.phase = some .low) :
    expireRecord now x =
      timed
        { applied x with
          dueTime := some (after now ((periodOf x + 1) / 2)), phase := some .high, outputLevel := heldLevel x .active }
        true := by
  have hstate := armed_of_due h hdue
  have hrule : expireRecord now x = timed (startHigh (takeStaged x) (x.dueTime.getD now)) true := by
    simp only [expireRecord, hmode, hphase]
  rw [hrule, hdue, Option.getD_some, startHigh_takeStaged h hmode, ← hstate]
  rfl

end

/-! ### Advances (R47) -/

theorem expireAll_eq_foldl (s : State) (l : List SlotId) : expireAll s l = l.foldl expireAt s := by
  induction l generalizing s with
  | nil => rfl
  | cons i rest ih => exact ih (expireAt s i)

theorem advanceAllowed_iff {b : TimeBase} : advanceAllowed b = true ↔ tbState b = .running ∧ 0 < b.owed := by
  rw [advanceAllowed, Bool.and_eq_true, decide_eq_true_eq, decide_eq_true_eq]

/-- An advance is taken while the time base allows it and no offer is at its last tick (R28, R51). -/
theorem advanceDue_iff {s : State} :
    advanceDue s = true ↔
      (tbState s.timeBase = .running ∧ 0 < s.timeBase.owed) ∧ ∀ o ∈ s.offers, ahead s.tableTime o.lapse ≠ 1 := by
  rw [advanceDue, Bool.and_eq_true, advanceAllowed_iff, Bool.not_eq_true', List.any_eq_false]
  simp only [atLastTick, decide_eq_true_eq, ne_eq]

end Sys2Proof.Machine
end

section
/-! CERTIFICATE. The REFCLK edges, advances and expiries (02_table_time.md, 03_the_schedule_and_expiry.md, 04_record_modes.md). -/

namespace Sys2Proof.Claims

open Sys2Proof.Machine Sys2Proof.Safety

/-- Settles O47: each edge command tests for STOPPED and for its phase, and `countAdvance` splits at 65,535. -/
theorem refclkEdgesCountAdvances : Obligations.RefclkEdgesCountAdvances := by
  intro s
  have hruns (h : s.timeBase.stopped = false) : tbState s.timeBase ≠ .stopped := fun hstopped => by
    rw [tbState_eq_stopped.1 hstopped] at h
    cases h
  refine ⟨fun hrun hphase => if_pos ⟨hruns hrun, hphase⟩, fun hrun hphase hroom => ?_, fun hrun hphase hfull => ?_,
    fun hstopped => ?_⟩
  · have hcounted : countAdvance s.timeBase = { s.timeBase with phase := 0, owed := s.timeBase.owed + 1 } := if_pos hroom
    rw [← hcounted]
    exact if_pos ⟨hruns hrun, hphase⟩
  · have hlost : countAdvance s.timeBase = { s.timeBase with phase := 0, slipped := true } := if_neg (Nat.not_lt.2 hfull)
    rw [← hlost]
    exact if_pos ⟨hruns hrun, hphase⟩
  · have hstate : tbState s.timeBase = .stopped := tbState_eq_stopped.2 hstopped
    exact ⟨if_neg fun ⟨hrun, _⟩ => hrun hstate, if_neg fun ⟨hrun, _⟩ => hrun hstate⟩

/-- Settles O48: `advanceDue` is the condition of the first clause, and the records due are those of the schedule at the new table
time. -/
theorem advanceExpiresTheRecordsDue : Obligations.AdvanceExpiresTheRecordsDue := by
  intro s
  refine ⟨fun hrun howed hoffers => ?_, fun hidle => if_neg fun hdue => ?_⟩
  · refine (if_pos (advanceDue_iff.2 ⟨⟨hrun, howed⟩, hoffers⟩)).trans ?_
    rw [expireAll_eq_foldl]
    rfl
  · obtain ⟨⟨hrun, howed⟩, hoffers⟩ := advanceDue_iff.1 hdue
    obtain hstate | hnone | ⟨o, ho, hlast⟩ := hidle
    · exact hstate hrun
    · omega
    · exact hoffers o ho hlast

/-- Settles O49: the rule of each mode, on a record that meets the record law, is the clause's record with its place, and a firing
adds the reporting fields and the entry of the set. -/
theorem expiryFollowsTheMode : Obligations.ExpiryFollowsTheMode := by
  refine ⟨fun s i rest hdue => ?_, fun s i x hx hlaw hdue hline hset => ?_⟩
  · have hhead : dueNow s = i :: rest := hdue
    show execExpiry s = _
    rw [execExpiry, hhead]
  · refine ⟨fun hmode => ?_, fun hmode => ?_, fun hmode => ?_, fun hmode hphase => ?_, fun hmode hphase => ?_⟩
    · refine expireAt_of_firing (op := .remove) hx hline hset ?_ rfl rfl
      obtain hmode | hmode := hmode
      · simp only [expireRecord, hmode, setLevel_untimed hlaw hdue (by simp [hmode])]
      · simp only [expireRecord, hmode, setLevel_untimed hlaw hdue (by simp [hmode])]
    · refine expireAt_of_firing (op := .remove) hx hline hset ?_ rfl rfl
      simp only [expireRecord, hmode, setLevel_untimed hlaw hdue (by simp [hmode])]
    · exact expireAt_of_firing (op := .place _) hx hline hset (expireRecord_cyclic hlaw hdue hmode) rfl rfl
    · exact expireAt_of_silent (op := .place _) hx hline (expireRecord_high hlaw hdue hmode hphase) rfl
    · exact expireAt_of_firing (op := .place _) hx hline hset (expireRecord_low hlaw hdue hmode hphase) rfl rfl

end Sys2Proof.Claims
end

section
/-! SUPPORT. The end of one offer and of all the offers of a client (R126, R136, R190), in the vocabulary of the statements. -/

namespace Sys2Proof.Machine

open Sys2Proof.Safety Sys2Proof.Claims

section

variable {s : State} {c d : Client} {i : SlotId} {x : Rec} {o : Offer}

/-- The end of an offer of the live record `x`. -/
theorem endOffer_eq (hx : recordAt s i = some x) (hrecord : o.record = i) :
    endOffer s o = relined (offerEnded s i x) o.receiver := by
  subst hrecord
  rw [endOffer, removeOffer_eq_offerEnded hx, refreshAttn_eq_relined]

/-! ### Offers that end one after another -/

theorem endOffers_offers (s : State) (l : List Offer) :
    (endOffers s l).offers = s.offers.filter fun o => decide (o.record ∉ l.map Offer.record) := by
  induction l generalizing s with
  | nil => exact (List.filter_eq_self.2 fun o _ => by simp).symm
  | cons q rest ih =>
    rw [endOffers, ih, endOffer_offers, List.filter_filter]
    refine List.filter_congr fun o _ => ?_
    simp [Bool.and_comm]

theorem recordAt_endOffers (s : State) (l : List Offer) (j : SlotId) :
    recordAt (endOffers s l) j =
      if j ∈ l.map Offer.record then (recordAt s j).map fun x => { x with offered := false } else recordAt s j := by
  induction l generalizing s with
  | nil => rfl
  | cons q rest ih =>
    rw [endOffers, ih, recordAt_endOffer, List.map_cons]
    by_cases hj : j = q.record
    · have hmem : j ∈ q.record :: rest.map Offer.record := by rw [hj]; exact List.mem_cons_self
      rw [if_pos hj, if_pos hmem]
      split
      · rw [Option.map_map]
        rfl
      · rfl
    · have hmem : j ∈ q.record :: rest.map Offer.record ↔ j ∈ rest.map Offer.record := by simp [hj]
      simp only [if_neg hj, hmem]

theorem endOffers_get_set (s : State) (l : List Offer) (d : Client) :
    ((endOffers s l).attn.get d).set = (s.attn.get d).set := by
  induction l generalizing s with
  | nil => rfl
  | cons q rest ih => rw [endOffers, ih, endOffer_get_set]

theorem endOffers_get_mask (s : State) (l : List Offer) (d : Client) :
    ((endOffers s l).attn.get d).mask = (s.attn.get d).mask := by
  induction l generalizing s with
  | nil => rfl
  | cons q rest ih => rw [endOffers, ih, endOffer_get_mask]

/-- Only the lines of the receivers are recomputed (R126). -/
theorem endOffers_get_of_ne {l : List Offer} (h : ∀ o ∈ l, o.receiver ≠ d) :
    (endOffers s l).attn.get d = s.attn.get d := by
  induction l generalizing s with
  | nil => rfl
  | cons q rest ih =>
    rw [endOffers, ih fun o ho => h o (List.mem_cons_of_mem q ho), endOffer,
      refreshAttn_get_of_ne _ (Ne.symm (h q List.mem_cons_self)), removeOffer_attn]

/-- The end of an offer makes its receiver's line follow, and leaves the others as they follow. -/
theorem endOffer_line (hnodup : (s.offers.map Offer.record).Nodup) (ho : o ∈ s.offers)
    (h : d ≠ o.receiver → (s.attn.get d).line = attnAsserts s d) :
    ((endOffer s o).attn.get d).line = attnAsserts (endOffer s o) d := by
  by_cases hd : d = o.receiver
  · rw [hd]
    exact refreshAttn_line_self _ _
  · refine refreshAttn_line ?_ _
    have hasserts : attnAsserts (removeOffer s o.record) d = attnAsserts s d :=
      attnAsserts_congr (by rw [removeOffer_attn]) (by rw [removeOffer_attn])
        (fun j _ => priorityAt_removeOffer s o.record j) (incomingOffer_removeOffer hnodup ho hd)
    rw [removeOffer_attn, hasserts]
    exact h hd

/-- After the ends of offers of different records the lines of all the receivers follow. -/
theorem endOffers_line {l : List Offer} (hnodup : (s.offers.map Offer.record).Nodup)
    (hl : (l.map Offer.record).Nodup) (hmem : ∀ o ∈ l, o ∈ s.offers)
    (h : (∃ o ∈ l, o.receiver = d) ∨ (s.attn.get d).line = attnAsserts s d) :
    ((endOffers s l).attn.get d).line = attnAsserts (endOffers s l) d := by
  induction l generalizing s with
  | nil => exact h.resolve_left fun ⟨_, ho, _⟩ => nomatch ho
  | cons q rest ih =>
    obtain ⟨hnew, hrest⟩ := List.nodup_cons.1 hl
    have hq := hmem q List.mem_cons_self
    have hended : ((endOffer s q).offers.map Offer.record).Nodup := by
      rw [endOffer_offers]
      exact (List.filter_sublist.map _).nodup hnodup
    have hleft : ∀ o ∈ rest, o ∈ (endOffer s q).offers := fun o ho => by
      rw [endOffer_offers, List.mem_filter]
      exact ⟨hmem o (List.mem_cons_of_mem q ho), decide_eq_true fun he => hnew (he ▸ List.mem_map_of_mem ho)⟩
    refine ih hended hrest hleft ?_
    obtain ⟨o, ho, hreceiver⟩ | hfollows := h
    · obtain rfl | ho := List.mem_cons.1 ho
      · exact .inr (endOffer_line hnodup hq fun hd => absurd hreceiver.symm hd)
      · exact .inl ⟨o, ho, hreceiver⟩
    · exact .inr (endOffer_line hnodup hq fun _ => hfollows)

/-! ### A marking (R190) -/

/-- The state in which client `c` has just become PURGING. -/
def markedPurging (s : State) (c : Client) : State := { s with purging := s.purging.set c true }

theorem markClient_slots (s : State) (c : Client) :
    (markClient s c).slots = (endOffers (markedPurging s c) (offersOf s c)).slots := rfl

theorem markClient_attn (s : State) (c : Client) :
    (markClient s c).attn = (endOffers (markedPurging s c) (offersOf s c)).attn := rfl

/-- Under the law of the offer table, the records of a client's offers have no other offer. -/
theorem mem_offersOf_records (hlaw : OfferTableLaw s) (ho : o ∈ s.offers) :
    o.record ∈ (offersOf s c).map Offer.record ↔ o.giver = c ∨ o.receiver = c := by
  obtain ⟨hnodup, _⟩ := hlaw
  rw [List.mem_map]
  constructor
  · rintro ⟨q, hq, hrecord⟩
    obtain ⟨hqs, hends⟩ := List.mem_filter.1 hq
    rw [← List.inj_on_of_nodup_map hnodup hqs ho hrecord]
    exact of_decide_eq_true hends
  · exact fun hends => ⟨o, List.mem_filter.2 ⟨ho, decide_eq_true hends⟩, rfl⟩

theorem markClient_offers (hlaw : OfferTableLaw s) (c : Client) :
    (markClient s c).offers = s.offers.filter fun o => decide (¬ (o.giver = c ∨ o.receiver = c)) := by
  have hoffers : (markClient s c).offers = (endOffers (markedPurging s c) (offersOf s c)).offers := rfl
  rw [hoffers, endOffers_offers]
  exact List.filter_congr fun o ho => decide_eq_decide.2 (not_congr (mem_offersOf_records hlaw ho))

theorem attnAsserts_markClient (s : State) (c d : Client) :
    attnAsserts (markClient s c) d = attnAsserts (endOffers (markedPurging s c) (offersOf s c)) d := rfl

/-- Blocks a marking does not name stand. -/
theorem markClient_frame (s : State) (c : Client) :
    markClient s c =
      { s with
        slots := (markClient s c).slots, offers := (markClient s c).offers, attn := (markClient s c).attn,
        purging := (markClient s c).purging, purgeQueue := (markClient s c).purgeQueue, cursor := (markClient s c).cursor } := by
  rw [← markClient_freeList s c, ← markClient_owned s c, ← markClient_timeBase s c, ← markClient_tableTime s c,
    ← markClient_schedule s c, ← markClient_trg s c, ← markClient_evt s c, ← markClient_ports s c,
    ← markClient_executor s c, ← markClient_lastServed s c, ← markClient_control s c, ← markClient_quota s c,
    ← markClient_freeDraws s c, ← markClient_pending s c]

end

/-! ### Arguments that name a client -/

/-- The four entries of a table. -/
theorem cells_eq_gets {α : Type} (t : Table α 4) : t.cells = [t.get 0, t.get 1, t.get 2, t.get 3] := by
  obtain ⟨cells, hsize⟩ := t
  match cells, hsize with
  | [a, b, c, d], _ => rfl

theorem controlByte_eq (control : Table Bool 4) :
    controlByte control = presence [control.get 0, control.get 1, control.get 2, control.get 3] :=
  congrArg presence (cells_eq_gets control)

theorem client_reads {kind seq : Byte} (c : Client) (rest : List Byte) :
    below 4 (arg1 (kind :: seq :: (byte1 c.val ++ rest)) 2) = some c := below_byte (by decide) c

end Sys2Proof.Machine
end

section
/-! CERTIFICATE. DECLINE, WITHDRAW and LAPSE (08_handing_over_records.md). -/

namespace Sys2Proof.Claims

open Sys2Proof.Machine Sys2Proof.Safety

/-- Settles O42: with at most one offer for any record the offer named is the one found, and all three commands end it in the same
way. -/
theorem declineWithdrawAndLapseEndTheOffer : Obligations.DeclineWithdrawAndLapseEndTheOffer := by
  intro s hlaw
  refine ⟨fun r h hs => ?_, fun r h hs => ?_, fun i x hx o ho hrecord hrun howed hlast => ?_⟩
  · have ⟨_, ⟨seq, hb⟩, _⟩ := hs
    have hhandle : argHandle r.body 2 = h := by rw [hb]; exact argHandle_only h
    refine ⟨fun hx => ?_, fun x hx => ⟨fun hnone => ?_, fun o ho hrecord hreceiver => ?_⟩⟩
    · exact refuses_of_refuse (act := declineAnswer) hs rfl rfl (by rw [declineAnswer, hhandle, withIncoming_of_stale hx])
    · exact refuses_of_refuse (act := declineAnswer) hs rfl rfl
        (by rw [declineAnswer, hhandle, withIncoming_of_no_offer hx hnone])
    · refine answers_of_accept (act := declineAnswer) hs rfl rfl ?_
      rw [declineAnswer, hhandle, ← hreceiver, withIncoming_of_offer hlaw hx ho hrecord,
        endOffer_eq (recordAt_of_names hx) hrecord]
  · have ⟨_, ⟨seq, hb⟩, _⟩ := hs
    have hhandle : argHandle r.body 2 = h := by rw [hb]; exact argHandle_only h
    obtain ⟨howner, hexec⟩ := ownerOnly_of_withOwned (c := .withdraw) (act := withdrawAnswer) hs rfl rfl
      (by rw [withdrawAnswer, hhandle])
    refine ⟨howner, fun x hx hport => ⟨fun hnone => ?_, fun o ho hrecord => ?_⟩⟩
    · have hfound : offerOf s h.slot = none := List.find?_eq_none.2 fun o ho => by simpa using hnone o ho
      refine (hexec x hx hport).trans ?_
      rw [hfound]
      rfl
    · refine (hexec x hx hport).trans ?_
      rw [(offerOf_eq_some_iff hlaw).2 ⟨ho, hrecord⟩]
      dsimp only
      rw [answered, endOffer_eq (recordAt_of_names hx) hrecord]
  · have hlapse : advanceAllowed s.timeBase = true ∧ atLastTick s o = true :=
      ⟨advanceAllowed_iff.2 ⟨hrun, howed⟩, decide_eq_true hlast⟩
    show execLapse i s = _
    rw [execLapse, (offerOf_eq_some_iff hlaw).2 ⟨ho, hrecord⟩]
    dsimp only
    rw [if_pos hlapse, endOffer_eq hx hrecord]

end Sys2Proof.Claims
end

section
/-! CERTIFICATE. Quotas, the control set, markings and the scan (11_supervision_and_purge.md). -/

namespace Sys2Proof.Claims

open Sys2Proof.Machine Sys2Proof.Safety

/-- Settles O52: the offers of a client are of different records, so each of them ends once, and the lines of their receivers follow
to the end. -/
theorem markingEffects : Obligations.MarkingEffects := by
  intro s c hlaw
  have ⟨hnodup, _⟩ := hlaw
  have hsub : (offersOf s c).Sublist s.offers := List.filter_sublist
  have hrecords (i : SlotId) : recordAt (markClient s c) i =
      if i ∈ (offersOf s c).map Offer.record then (recordAt s i).map fun x => { x with offered := false }
      else recordAt s i := (recordAt_eq_of_slots (markClient_slots s c) i).trans (recordAt_endOffers _ _ i)
  have hkept : Kept (fun _ => ()) s (markClient s c) := .markClient (fun _ => rfl) c
  refine ⟨markClient_purging s c, markClient_purgeQueue s c, markClient_cursor s c, markClient_offers hlaw c,
    fun i => ⟨hkept.generation i, fun hends => ?_, fun hstays => ?_⟩,
    fun d => ⟨?_, ?_, fun hends => ?_, fun hstays => ?_⟩, markClient_frame s c⟩
  · obtain ⟨o, ho, hrecord, hends⟩ := hends
    rw [hrecords, if_pos]
    rw [← hrecord]
    exact (mem_offersOf_records hlaw ho).2 hends
  · rw [hrecords, if_neg]
    intro hi
    obtain ⟨o, ho, hrecord⟩ := List.mem_map.1 hi
    exact hstays o (hsub.subset ho) hrecord (of_decide_eq_true (List.mem_filter.1 ho).2)
  · rw [markClient_attn, endOffers_get_set]
    rfl
  · rw [markClient_attn, endOffers_get_mask]
    rfl
  · obtain ⟨o, ho, hends, hreceiver⟩ := hends
    have hin : o ∈ offersOf s c := List.mem_filter.2 ⟨ho, decide_eq_true hends⟩
    rw [attnAsserts_markClient, markClient_attn]
    exact endOffers_line hnodup ((hsub.map _).nodup hnodup) (fun q hq => hsub.subset hq) (.inl ⟨o, hin, hreceiver⟩)
  · rw [markClient_attn, endOffers_get_of_ne fun o ho => hstays o (hsub.subset ho) (of_decide_eq_true (List.mem_filter.1 ho).2)]
    rfl

/-- Settles O50: the client and the quota read back, and each request writes one entry of one table. -/
theorem quotaAndControlRequests : Obligations.QuotaAndControlRequests := by
  intro s r c
  refine ⟨fun n hn hs => ?_, fun hs => ?_, fun hc hs => ?_⟩
  · have ⟨_, ⟨seq, hb⟩, _⟩ := hs
    have hclient : below 4 (arg1 r.body 2) = some c := by rw [hb]; exact client_reads c _
    have hquota : arg2 r.body 3 = n := by rw [hb]; exact byte2_reads (by omega)
    have hsize : ¬ Config.tableSize < n := Nat.not_lt.2 hn
    refine ⟨fun hover => ?_, fun hfits => ?_⟩
    · refine refuses_of_refuse (act := setQuotaAnswer) hs rfl rfl ?_
      rw [setQuotaAnswer, hclient, hquota]
      exact (if_neg hsize).trans (if_pos hover)
    · refine answers_of_accept (act := setQuotaAnswer) hs rfl rfl ?_
      rw [setQuotaAnswer, hclient, hquota]
      refine (if_neg hsize).trans ((if_neg (Nat.not_lt.2 hfits)).trans ?_)
      simp only [setQuotaPayload, Table.get_set_self]
      rfl
  · have ⟨_, ⟨seq, hb⟩, _⟩ := hs
    have hclient : below 4 (arg1 r.body 2) = some c := by rw [hb]; exact client_reads c []
    refine answers_of_accept (act := grantControlAnswer) hs rfl rfl ?_
    rw [grantControlAnswer, hclient]
    dsimp only
    rw [controlByte_eq]
  · have ⟨_, ⟨seq, hb⟩, _⟩ := hs
    have hclient : below 4 (arg1 r.body 2) = some c := by rw [hb]; exact client_reads c []
    refine answers_of_accept (act := revokeControlAnswer) hs rfl rfl ?_
    rw [revokeControlAnswer, hclient]
    dsimp only
    rw [if_neg hc, controlByte_eq]

/-- Settles O51: the client reads back, and the offers counted are those its marking ends. -/
theorem purgeClientMarksTheClient : Obligations.PurgeClientMarksTheClient := by
  intro s r c hs
  have ⟨_, ⟨seq, hb⟩, _⟩ := hs
  have hclient : below 4 (arg1 r.body 2) = some c := by rw [hb]; exact client_reads c []
  refine ⟨fun hpurging => ?_, fun hnormal => ?_⟩
  · refine refuses_of_refuse (act := purgeClientAnswer) hs rfl rfl ?_
    rw [purgeClientAnswer, hclient]
    exact if_pos hpurging
  · refine answers_of_accept (act := purgeClientAnswer) hs rfl rfl ?_
    rw [purgeClientAnswer, hclient]
    exact if_neg (by simp [hnormal])

/-- Settles O53: the record in the slot decides whether it is retired, and the slot's number whether the scan goes on. -/
theorem purgeStepExaminesOneSlot : Obligations.PurgeStepExaminesOneSlot := by
  intro s c rest u hqueue i hexamined
  have hstep : exec .purgeStep s = .next (moveCursor (examineSlot s c i) c i) := by
    show execPurgeStep s = _
    rw [execPurgeStep, hqueue]
  have hslot : examineSlot s c i = u := by
    obtain ⟨x, hx, howner, hu⟩ | ⟨hother, hu⟩ := hexamined
    · rw [examineSlot, hx, hu]
      exact if_pos howner
    · rw [examineSlot, hu]
      split
      · rfl
      · next x hx => exact if_neg (hother x hx)
  have hrest : u.purgeQueue = c :: rest := by rw [← hslot, examineSlot_purgeQueue, hqueue]
  rw [hstep, hslot]
  refine ⟨fun j hj => ?_, fun hlast => ?_⟩
  · have hnext : i.val + 1 < 2048 := hj ▸ j.isLt
    have hj' : (⟨i.val + 1, hnext⟩ : SlotId) = j := Fin.ext hj.symm
    rw [moveCursor, dif_pos hnext, hj']
  · rw [moveCursor, dif_neg (by omega), hrest]
    rfl

end Sys2Proof.Claims
end

section
/-! CERTIFICATE. The queue of commands and RESET. -/

namespace Sys2Proof.Claims

open Sys2Proof.Machine Sys2Proof.Safety

/-- Settles O1: the two clauses are the two cases of the queue in `step`. -/
theorem stepTakesTheFrontCommand : Obligations.StepTakesTheFrontCommand := by
  refine ⟨fun c rest s => ?_, fun s => ?_⟩
  · rw [step]
  · rw [step]

/-- Settles O2: each block is a table with one entry throughout, or a table of the pins, or a value without any. -/
theorem deviceResetRestoresEveryBlock : Obligations.DeviceResetRestoresEveryBlock := by
  intro pins s
  have hexec : exec (.reset pins) s =
      .next { State.afterReset pins with freeDraws := s.freeDraws, pending := s.pending } := rfl
  have hslots : ∀ i, (State.afterReset pins).slots.get i = { generation := 0, record := none } := fun i =>
    Table.get_fill _ i
  have hfree : (State.afterReset pins).freeList = List.finRange 2048 := by simp only [State.afterReset, allSlots]
  have howned : ∀ c, (State.afterReset pins).owned.get c = 0 := fun c => Table.get_fill _ c
  have htimeBase : (State.afterReset pins).timeBase =
      { stopped := true, requestHold := false, lineHold := decide (pins.holdin = .high), prescaler := 1, phase := 0,
        owed := 0, slipped := false, policy := .catchUp } := by
    have hline : Signal.holdin.asserted pins.holdin = decide (pins.holdin = .high) := by cases pins.holdin <;> rfl
    rw [← hline]
    rfl
  have htime : (State.afterReset pins).tableTime = 0 := rfl
  have hschedule : (State.afterReset pins).schedule = [] := rfl
  have htrg : ∀ k, (State.afterReset pins).trg.get k = { polarity := .high, level := pins.trg.get k, listeners := [] } :=
    fun k => Table.get_map pins.trg _ k
  have hevt : ∀ k, (State.afterReset pins).evt.get k = { idle := .low, bound := none, driven := .low } := fun k =>
    Table.get_fill _ k
  have hattn : ∀ c, (State.afterReset pins).attn.get c = { set := [], mask := 0, line := false } := fun c =>
    Table.get_fill _ c
  have hoffers : (State.afterReset pins).offers = [] := rfl
  have hports : ∀ p, (State.afterReset pins).ports.get p = portAfterReset (pins.prst.get p) (pins.sel.get p) :=
    portsAfterReset_get pins
  have hexecutor : (State.afterReset pins).executor = none := rfl
  have hserved : (State.afterReset pins).lastServed = 3 := rfl
  have hcontrol : ∀ c, (State.afterReset pins).control.get c = decide (c = 0) := fun c => by
    have htable : (State.afterReset pins).control = (Table.fill 4 false).set 0 true := rfl
    rw [htable, Table.get_set, Table.get_fill]
    by_cases hc : c = 0 <;> simp [hc]
  have hquota : ∀ c, (State.afterReset pins).quota.get c = 512 := fun c => Table.get_fill _ c
  have hpurging : ∀ c, (State.afterReset pins).purging.get c = false := fun c => Table.get_fill _ c
  have hqueue : (State.afterReset pins).purgeQueue = [] := rfl
  have hcursor : (State.afterReset pins).cursor = none := rfl
  rw [hexec]
  generalize State.afterReset pins = u at *
  refine ⟨_, rfl, hslots, hfree, howned, htimeBase, htime, hschedule, htrg, hevt, hattn, hoffers, fun p => ?_, hexecutor,
    hserved, hcontrol, hquota, hpurging, hqueue, hcursor, rfl⟩
  have hp := hports p
  refine ⟨?_, congrArg Port.inbound hp, congrArg Port.outbound hp, congrArg Port.refused hp, congrArg Port.malformed hp⟩
  refine (congrArg Port.state hp).trans ?_
  cases pins.prst.get p <;> rfl

/-- Settles O3: each law holds of the values after RESET, as the proof that every command keeps it has found. -/
theorem resetStateIsSafe : Obligations.ResetStateIsSafe := fun pins =>
  ⟨timeBaseLaw_afterReset pins, portsLaw_afterReset pins, responsesLaw_afterReset pins, supervisionLaw_afterReset pins,
    accountLaw_afterReset pins, timingFrom_one_iff.1 (timingFrom_afterReset pins), linesAgree_iff.1 (linesAgree_afterReset pins),
    offerLaw_afterReset pins, attentionLaw_afterReset pins⟩

end Sys2Proof.Claims
end

section
/-! SUPPORT. Transfers at the ports, in the vocabulary of the statements: the status captured, what a transfer that is heard shifts
out, how a frame is judged, and the order of the arbiter. -/

namespace Sys2Proof.Machine

open Sys2Proof.Safety Sys2Proof.Claims

section

variable {s : State} {p : Client} {t : Transfer} {a b : Byte}

/-! ### The status (R153, Table 10-7) -/

/-- The free inbound slots and the responses waiting fill the low seven bits of their byte. -/
theorem statusCounts_read {free waiting : Nat} (hfree : free ≤ 4) (hwaiting : waiting ≤ 8) :
    (BitVec.ofNat 8 (free * 16 + waiting)).getLsbD 7 = false ∧
      ((BitVec.ofNat 8 (free * 16 + waiting)).extractLsb' 4 3).toNat = free ∧
      ((BitVec.ofNat 8 (free * 16 + waiting)).extractLsb' 0 4).toNat = waiting := by
  refine ⟨?_, ?_, ?_⟩
  · rw [BitVec.getLsbD_ofNat, Nat.testBit_lt_two_pow (by omega), Bool.and_false]
  · rw [extractLsb'_ofNat _ (by decide), BitVec.toNat_ofNat]
    omega
  · rw [extractLsb'_ofNat _ (by decide), BitVec.toNat_ofNat]
    omega

/-- Four flags fill the low four bits of their byte. -/
theorem statusFlags_read (f₀ f₁ f₂ f₃ : Bool) :
    (BitVec.ofNat 8 (bitsValue [f₀, f₁, f₂, f₃])).extractLsb' 4 4 = 0 ∧
      (BitVec.ofNat 8 (bitsValue [f₀, f₁, f₂, f₃])).getLsbD 3 = f₃ ∧
      (BitVec.ofNat 8 (bitsValue [f₀, f₁, f₂, f₃])).getLsbD 2 = f₂ ∧
      (BitVec.ofNat 8 (bitsValue [f₀, f₁, f₂, f₃])).getLsbD 1 = f₁ ∧
      (BitVec.ofNat 8 (bitsValue [f₀, f₁, f₂, f₃])).getLsbD 0 = f₀ := by
  have hlow : bitsValue [f₀, f₁, f₂, f₃] < 2 ^ 4 := bitsValue_lt [f₀, f₁, f₂, f₃]
  have hflag {k : Nat} (hk : k < 4) :
      (BitVec.ofNat 8 (bitsValue [f₀, f₁, f₂, f₃])).getLsbD k = [f₀, f₁, f₂, f₃].getD k false := by
    have hitem := getLsbD_items 0 [f₀, f₁, f₂, f₃] hk (by omega)
    rwa [Nat.mul_zero, Nat.zero_add] at hitem
  refine ⟨?_, hflag (by decide), hflag (by decide), hflag (by decide), hflag (by decide)⟩
  rw [extractLsb'_ofNat _ (by decide), Nat.div_eq_of_lt hlow]
  rfl

theorem freshTransfer_of_reset (h : (s.ports.get p).state = .reset) :
    freshTransfer s p = { status := none, ended := false, chosen := none } := by
  rw [freshTransfer, if_neg (by simp [h])]

theorem freshTransfer_of_ready (h : (s.ports.get p).state = .ready) :
    freshTransfer s p = { status := some (portStatus s p), ended := false, chosen := none } := by
  rw [freshTransfer, if_pos h]

/-- A fall of SELn begins a transfer (R152). -/
theorem selFalls_of_idle (h : (s.ports.get p).transfer = none) :
    selFalls s p = putPort s p { s.ports.get p with transfer := some (freshTransfer s p) } := by rw [selFalls, h]

/-! ### Transfers that are heard -/

theorem currentTransfer_eq (h : (s.ports.get p).transfer = some t) : currentTransfer s p = t := by
  rw [currentTransfer, h]
  rfl

theorem ignored_iff : t.ignored = true ↔ t.ended = true ∨ t.status = none := by
  rw [Transfer.ignored, Bool.or_eq_true, Option.isNone_iff_eq_none]
  exact or_comm

theorem ignored_eq_false (hstatus : t.status = some (a, b)) (hended : t.ended = false) : t.ignored = false := by
  rw [Transfer.ignored, hstatus, hended]
  rfl

theorem shiftedOut_of_heard (hstatus : t.status = some (a, b)) (hended : t.ended = false) (n : Nat) (tail : List Byte) :
    shiftedOut t n tail = misoBytes a b tail n := by
  rw [shiftedOut, hended, hstatus]
  rfl

/-- A transfer that began in RESET leaves MISOn at high impedance (R166). -/
theorem shiftedOut_of_silent (hstatus : t.status = none) (hended : t.ended = false) (n : Nat) (tail : List Byte) :
    shiftedOut t n tail = List.replicate n none := by
  rw [shiftedOut, hended, hstatus]
  rfl

theorem length_misoBytes (a b : Byte) (tail : List Byte) (n : Nat) : (misoBytes a b tail n).length = n := by
  rw [misoBytes, List.length_map, List.length_take, List.length_append, List.length_replicate]
  omega

/-- The status comes first on MISOn (R153). -/
theorem take_misoBytes (a b : Byte) (tail : List Byte) (n : Nat) :
    (misoBytes a b tail n).take 2 = [some a, some b].take n := by
  have hstatus : (a :: b :: tail ++ List.replicate n 0xFF).take 2 = [a, b] := rfl
  rw [misoBytes, ← List.map_take, List.take_take, Nat.min_comm, ← List.take_take, hstatus, List.map_take]
  rfl

/-! ### SUBMIT (R155) -/

theorem submittedBody_of_malformed {mosi : List Byte} (h : MalformedFrame mosi) : submittedBody mosi = none := by
  cases mosi with
  | nil => rfl
  | cons len rest =>
    rw [submittedBody]
    split_ifs with hrange hshort hcrc
    · rfl
    · rfl
    · rfl
    · rw [not_or] at hrange
      obtain ⟨hmin, hmax⟩ := hrange
      obtain hbad | hbad | hbad | hbad := h
      · exact absurd hbad hmin
      · exact absurd hbad hmax
      · exact absurd hbad hshort
      · exact absurd hbad hcrc

theorem judgeSubmit_of_malformed {mosi : List Byte} (h : submittedBody mosi = none) :
    judgeSubmit s p mosi = { s.ports.get p with malformed := true, refused := false } := by rw [judgeSubmit, h]

theorem judgeSubmit_of_full {mosi body : List Byte} (h : submittedBody mosi = some body)
    (hfull : 4 ≤ (s.ports.get p).inbound.length ∨ 8 ≤ reservation s p) :
    judgeSubmit s p mosi = { s.ports.get p with malformed := false, refused := true } := by
  rw [judgeSubmit, h]
  exact if_pos hfull

theorem judgeSubmit_of_room {mosi body : List Byte} (h : submittedBody mosi = some body)
    (hroom : ¬ (4 ≤ (s.ports.get p).inbound.length ∨ 8 ≤ reservation s p)) :
    judgeSubmit s p mosi =
      { s.ports.get p with malformed := false, refused := false, inbound := (s.ports.get p).inbound ++ [body] } := by
  rw [judgeSubmit, h]
  exact if_neg hroom

theorem submitRises_of_heard {mosi : List Byte} (ht : (s.ports.get p).transfer = some t) (hheard : t.ignored = false)
    (hchosen : t.chosen = none) :
    submitRises s p (submitCode :: mosi) =
      putPort s p (closed (judgeSubmit s p mosi) t (mosi.length + 1) []) := by
  have hkind : transferKind (submitCode :: mosi) = .submit := transferKind_eq_submit.2 rfl
  have hsubmit : ¬ (t.chosen ≠ none ∨ transferKind (submitCode :: mosi) ≠ .submit) := by simp [hchosen, hkind]
  rw [submitRises, currentTransfer_eq ht, hheard, if_neg Bool.false_ne_true, if_neg hsubmit]
  rfl

/-! ### FETCH (R158, R159) -/

theorem length_frame (body : List Byte) : (frame body).length = body.length + 2 := by
  simp [frame, lengthAndBody]

theorem fetchedQueue_of_none (q : Port) (n : Nat) : fetchedQueue q none n = q := rfl

/-- The response chosen leaves the queue once the two status bytes and its whole frame have been clocked. -/
theorem fetchedQueue_of_some (q : Port) (body : List Byte) (n : Nat) :
    fetchedQueue q (some body) n =
      { q with outbound := if body.length + 4 ≤ n then q.outbound.tail else q.outbound } := by
  have hwhole : fetchComplete (some body) n = decide (body.length + 4 ≤ n) := by
    rw [fetchComplete, length_frame]
    exact decide_eq_decide.2 (by omega)
  rw [fetchedQueue, hwhole]
  by_cases h : body.length + 4 ≤ n
  · rw [if_pos (decide_eq_true h), if_pos h]
  · rw [if_neg (by simpa using h), if_neg h]

theorem fetchRises_of_heard {rest : List Byte} (ht : (s.ports.get p).transfer = some t) (hheard : t.ignored = false)
    {chosen : Option (List Byte)} (hchosen : t.chosen = some chosen) :
    fetchRises s p (fetchCode :: rest) =
      putPort s p (closed (fetchedQueue (s.ports.get p) chosen (rest.length + 1)) t (rest.length + 1) (fetchTail chosen)) := by
  have hkind : transferKind (fetchCode :: rest) = .fetch := transferKind_eq_fetch.2 rfl
  rw [fetchRises, currentTransfer_eq ht]
  dsimp only
  rw [hheard, if_neg Bool.false_ne_true, if_neg (not_not.2 hkind), hchosen]
  rfl

/-! ### The arbiter (R161) -/

theorem lt_length_cyclicOrder {last : Client} {k : Nat} (hk : k < 4) : k < (cyclicOrder last).length := hk

/-- Place `k` of the cyclic order is the port `k + 1` after the last served. -/
theorem cyclicOrder_get (last k : Client) :
    (cyclicOrder last)[k.val]'(lt_length_cyclicOrder k.isLt) = last + 1 + k := by
  fin_cases k <;> simp [cyclicOrder] <;> fin_cases last <;> rfl

theorem place_in_cyclicOrder (last k : Client) : last + 1 + k - last - 1 = k := by
  fin_cases last <;> fin_cases k <;> rfl

theorem cyclicOrder_place (last p : Client) : last + 1 + (p - last - 1) = p := by
  fin_cases last <;> fin_cases p <;> rfl

/-- The first port in the cyclic order whose queue is not empty is the next. -/
theorem nextPort_of_first (hp : (s.ports.get p).inbound ≠ [])
    (hfirst : ∀ q, (q - s.lastServed - 1).val < (p - s.lastServed - 1).val → (s.ports.get q).inbound = []) :
    nextPort s = some p := by
  refine List.find?_eq_some_iff_getElem.2 ⟨decide_eq_true hp, (p - s.lastServed - 1).val,
    lt_length_cyclicOrder (p - s.lastServed - 1).isLt, ?_, fun j hj => ?_⟩
  · rw [cyclicOrder_get, cyclicOrder_place]
  · have hlt : j < 4 := hj.trans (p - s.lastServed - 1).isLt
    have hplace : (cyclicOrder s.lastServed)[j]'(lt_length_cyclicOrder hlt) = s.lastServed + 1 + ⟨j, hlt⟩ :=
      cyclicOrder_get s.lastServed ⟨j, hlt⟩
    have hempty := hfirst (s.lastServed + 1 + ⟨j, hlt⟩) (by rw [place_in_cyclicOrder]; exact hj)
    rw [hplace]
    simp [hempty]

theorem nextPort_of_empty (h : ∀ p, (s.ports.get p).inbound = []) : nextPort s = none :=
  List.find?_eq_none.2 fun p _ => by simp [h p]

/-- An ignored transfer ends, and its port is otherwise as it was (R152). -/
theorem ignoredRises_of_heard {mosi : List Byte} (ht : (s.ports.get p).transfer = some t) (hheard : t.ignored = false)
    (hchosen : t.chosen = none) (hkind : transferKind mosi = .ignored) :
    ignoredRises s p mosi =
      { putPort s p (closed (s.ports.get p) t mosi.length (freeBytes s.freeDraws mosi.length)) with
        freeDraws := s.freeDraws + mosi.length } := by
  have hignored : ¬ (t.chosen ≠ none ∨ transferKind mosi ≠ .ignored) := by simp [hchosen, hkind]
  rw [ignoredRises, currentTransfer_eq ht]
  dsimp only
  rw [hheard, if_neg Bool.false_ne_true, if_neg hignored]

end

end Sys2Proof.Machine
end

section
/-! CERTIFICATE. The transfers, the arbiter and the port resets (09_client_ports.md). -/

namespace Sys2Proof.Claims

open Sys2Proof.Machine Sys2Proof.Safety

/-- Settles O54: the effects of an assertion are `assertPortReset`, and a transfer that is ignored ends in the same way under each
of the three commands. -/
theorem portResetAndRelease : Obligations.PortResetAndRelease := by
  intro s p
  refine ⟨fun htaken hpurging => ?_, fun htaken hnormal => ?_, fun htaken => ?_, ⟨rfl, rfl⟩,
    fun t mosi c ht hignored hc => ⟨fun _ => ?_, shiftedOut t mosi.length [], ?_⟩⟩
  · show execPortReset p s = _
    rw [execPortReset, htaken, hpurging]
    rfl
  · show execPortReset p s = _
    rw [execPortReset, htaken, hnormal]
    rfl
  · show execPortResetRelease p s = _
    rw [execPortResetRelease, htaken]
    rfl
  · rw [misoHighZ, ht]
    exact ignored_iff.2 hignored
  · obtain ⟨hsubmit, hfetch, hother⟩ := rises_of_ignored (mosi := mosi) ht (ignored_iff.2 hignored)
    obtain rfl | rfl | rfl := hc
    · exact congrArg Host.Outcome.next hsubmit
    · exact congrArg Host.Outcome.next hfetch
    · exact congrArg Host.Outcome.next hother

/-- Settles O55: the three commands begin the transfer in the same way, and under the law of the port the two counts fit their
fields of the status. -/
theorem transferBeginsWithTheStatus : Obligations.TransferBeginsWithTheStatus := by
  intro s p c hc hlaw hidle
  have hexec : exec c s = .next (putPort s p { s.ports.get p with transfer := some (freshTransfer s p) }) := by
    rw [← selFalls_of_idle hidle]
    obtain rfl | rfl | rfl := hc <;> rfl
  obtain ⟨_, hreserved, _⟩ := hlaw
  have hlimit : Config.reservationLimit = 8 := rfl
  have hwaiting : (s.ports.get p).outbound.length ≤ 8 := by
    rw [reservation] at hreserved
    omega
  have hfree : freeInbound s p ≤ 4 := (Nat.min_le_left _ _).trans (Nat.sub_le _ _)
  refine ⟨fun hreset => ?_, fun hready => ?_⟩
  · rw [hexec, freshTransfer_of_reset hreset]
    rfl
  · obtain ⟨hpad, hslots, hresponses⟩ := statusCounts_read hfree hwaiting
    obtain ⟨hzero, hattn, hrefused, hmalformed, hpurging⟩ :=
      statusFlags_read (s.purging.get p) (s.ports.get p).malformed (s.ports.get p).refused (s.attn.get p).line
    refine ⟨_, _, ?_, hpad, hslots, hresponses, hzero, hattn, hrefused, hmalformed, hpurging⟩
    rw [hexec, freshTransfer_of_ready hready]
    rfl

/-- Settles O56: the transfer is heard, so the rise judges the bytes after the code, and the body of a well-formed frame reads
back. -/
theorem submitIsJudgedAtTheRise : Obligations.SubmitIsJudgedAtTheRise := by
  intro s p mosi t a b ht hstatus hended hchosen
  have hexec : exec (.submit p (.rises (0xA5 :: mosi))) s =
      .next (putPort s p
        { judgeSubmit s p mosi with transfer := none, shifted := misoBytes a b [] (mosi.length + 1) }) := by
    rw [← shiftedOut_of_heard hstatus hended]
    exact congrArg Host.Outcome.next (submitRises_of_heard ht (ignored_eq_false hstatus hended) hchosen)
  refine ⟨rfl, fun hmalformed => ?_, fun body rest hbody hmosi => ?_⟩
  · rw [hexec, judgeSubmit_of_malformed (submittedBody_of_malformed hmalformed)]
    rfl
  · have hread : submittedBody mosi = some body := hmosi ▸ submittedBody_frame hbody rest
    refine ⟨fun hfull => ?_, fun hroom => ?_⟩
    · rw [hexec, judgeSubmit_of_full hread hfull]
      rfl
    · rw [hexec, judgeSubmit_of_room hread hroom]
      rfl

/-- Settles O57: the transfer is heard, so the choice made at the code decides what is shifted out and what leaves the queue. -/
theorem fetchRemovesAResponseSentWhole : Obligations.FetchRemovesAResponseSentWhole := by
  intro s p t a b ht hstatus hended
  have hheard := ignored_eq_false hstatus hended
  refine ⟨rfl, fun hchosen => ?_, fun rest => ⟨rfl, fun hnone => ?_, fun body hbody => ?_⟩⟩
  · have hfirst : ¬ (t.ignored = true ∨ t.chosen ≠ none) := by simp [hheard, hchosen]
    show execFetchCodeRecognised p s = _
    rw [execFetchCodeRecognised, currentTransfer_eq ht]
    exact if_neg hfirst
  · refine (congrArg Host.Outcome.next (fetchRises_of_heard ht hheard hnone)).trans ?_
    rw [closed, shiftedOut_of_heard hstatus hended, fetchedQueue_of_none]
    rfl
  · refine (congrArg Host.Outcome.next (fetchRises_of_heard ht hheard hbody)).trans ?_
    rw [closed, shiftedOut_of_heard hstatus hended, fetchedQueue_of_some]
    rfl

/-- Settles O58: on a READY port the status is the head of what is shifted out, and a transfer that began in RESET shifts nothing
out. -/
theorem ignoredTransferChangesNothing : Obligations.IgnoredTransferChangesNothing := by
  intro s p mosi t ht hended hchosen hsubmit hfetch
  have hkind : transferKind mosi = .ignored := transferKind_eq_ignored.2 ⟨hsubmit, hfetch⟩
  refine ⟨by rw [transferCommand, hkind], ?_⟩
  cases hstatus : t.status with
  | none =>
    obtain ⟨_, _, hrises⟩ := rises_of_ignored (mosi := mosi) ht (ignored_iff.2 (.inr hstatus))
    refine ⟨List.replicate mosi.length none, s.freeDraws, ?_, List.length_replicate, nofun,
      fun _ => rfl⟩
    rw [← shiftedOut_of_silent hstatus hended mosi.length []]
    exact congrArg Host.Outcome.next hrises
  | some status =>
    obtain ⟨a, b⟩ := status
    refine ⟨misoBytes a b (freeBytes s.freeDraws mosi.length) mosi.length, s.freeDraws + mosi.length, ?_,
      length_misoBytes _ _ _ _, fun a' b' hsome => ?_, fun hnone => nomatch hnone⟩
    · rw [← shiftedOut_of_heard hstatus hended]
      exact congrArg Host.Outcome.next (ignoredRises_of_heard ht (ignored_eq_false hstatus hended) hchosen hkind)
    · cases hsome
      exact take_misoBytes a b _ _

/-- Settles O59: the port's place in the cyclic order is its distance from the last served, and the places before it hold no
frame. -/
theorem selectionIsCyclic : Obligations.SelectionIsCyclic := by
  intro s
  refine ⟨fun p body rest hidle hqueue hfirst => ?_, fun hnone => ?_⟩
  · show execSelection s = _
    rw [execSelection, hidle, nextPort_of_first (by rw [hqueue]; exact List.cons_ne_nil _ _) hfirst]
    dsimp only
    rw [selectPort, hqueue]
    rfl
  · show execSelection s = _
    unfold execSelection
    obtain hbusy | hempty := hnone
    · obtain ⟨r, hr⟩ := Option.ne_none_iff_exists'.1 hbusy
      rw [hr]
    · rw [nextPort_of_empty hempty]
      cases s.executor <;> rfl

end Sys2Proof.Claims
end
